-- ==== Sys2Proof/Word.lean ====
section
/-!
DEFINITION. The word types of SWG-CORE (00_scope.md R12, R13): every register is 16 bits, a command
word is 64 bits, the response data word is 32 bits. Bit 0 is the least significant bit of each.
-/
namespace Sys2Proof

/-- A register, a phase code, an attenuation code, a 16-bit operand (R12). -/
abbrev Word := BitVec 16

/-- A command word CW (R110). -/
abbrev CmdWord := BitVec 64

/-- The response data word RSP_DATA (R122). -/
abbrev RspData := BitVec 32

end Sys2Proof
end

