-- ==== Sys2Proof/Syntax.lean ====
section
/-!
DEFINITION. The commands of SWG-CORE, one constructor per row of spec/opcode_table.json
(30_encoding.md R111), with the operands of their formats (R112 to R117).
-/
namespace Sys2Proof

/-- The sixteen registers, in the order of their indices (10_state.md R31). -/
inductive Reg where
  | freq | phi | att | status | phi0 | val0 | phi1 | val1
  | steps | sampl | msize | asize | sidx | ridx | aidx | cfg
deriving DecidableEq, Repr

/-- The four container widths (30_encoding.md R117). -/
inductive CWidth where
  | c8 | c16 | c22 | c32
deriving DecidableEq, Repr

/-- The width in bits of a container code (R117). -/
def CWidth.bits : CWidth → Nat
  | .c8 => 8
  | .c16 => 16
  | .c22 => 22
  | .c32 => 32

/-- The descriptor of format FX (30_encoding.md R116, 40_fixedpoint.md R160): fields S, M, NS, ND, CS, CD. -/
structure FxDesc where
  /-- S: the source format is signed (SQ) -/
  signed : Bool
  /-- M: the integer bits, kept by every conversion -/
  m      : BitVec 5
  /-- NS: the fractional bits of the source format -/
  ns     : BitVec 5
  /-- ND: the fractional bits of the destination format (FXEXT, FXSHR); required 0 for FXU2S, FXS2U -/
  nd     : BitVec 5
  /-- CS: the source container -/
  cs     : CWidth
  /-- CD: the destination container -/
  cd     : CWidth
deriving DecidableEq, Repr

/-- One command. -/
inductive Instr where
  /-- INIT (R240), format N -/
  | init
  /-- SETF (R241), format U16 -/
  | setf (imm : Word)
  /-- SETP (R242), format U16 -/
  | setp (imm : Word)
  /-- SETA (R243), format U16 -/
  | seta (imm : Word)
  /-- OUT (R245), format N -/
  | out
  /-- STEP (R244), format N -/
  | step
  /-- RDREG (R246), format R -/
  | rdreg (r : Reg)
  /-- SINE (R209), format U16 -/
  | sine (phi : Word)
  /-- MSINE (R210), format AB: A16 the phase, B16 the attenuation -/
  | msine (phi att : Word)
  /-- FXEXT (R163), format FX -/
  | fxext (d : FxDesc) (a : BitVec 32)
  /-- FXSHR (R164), format FX -/
  | fxshr (d : FxDesc) (a : BitVec 32)
  /-- FXU2S (R165), format FX -/
  | fxu2s (d : FxDesc) (a : BitVec 32)
  /-- FXS2U (R166), format FX -/
  | fxs2u (d : FxDesc) (a : BitVec 32)
  /-- ISQRT (R302), format U16 -/
  | isqrt (x : Word)
deriving DecidableEq, Repr

end Sys2Proof
end

