-- ==== Sys2Proof/Machine/Descriptor.lean ====
section
/-!
DEFINITION. Which FX descriptors name a legal conversion (30_encoding.md R119, 40_fixedpoint.md R160 and
the legality lines of R163 to R166), and the A32 rule of R116 and R161.
-/
namespace Sys2Proof.Machine

/-- sg of R160: 1 for a signed source, 0 for an unsigned one. -/
def fxSg (d : FxDesc) : Nat := if d.signed then 1 else 0

/-- wS of R160: the source format's width sg + m + ns. -/
def fxSourceWidth (d : FxDesc) : Nat := fxSg d + d.m.toNat + d.ns.toNat

/-- wD of R163 and R164: the width sg + m + nd of a destination with the source's signedness. -/
def fxDestWidth (d : FxDesc) : Nat := fxSg d + d.m.toNat + d.nd.toNat

/-- Legality of FXEXT (R163). -/
def fxextLegal (d : FxDesc) : Bool :=
  decide (d.ns.toNat ≤ d.nd.toNat) && decide (1 ≤ fxSourceWidth d) &&
    decide (fxSourceWidth d ≤ d.cs.bits) && decide (fxDestWidth d ≤ d.cd.bits)

/-- Legality of FXSHR (R164). -/
def fxshrLegal (d : FxDesc) : Bool :=
  decide (d.nd.toNat ≤ d.ns.toNat) && decide (fxSourceWidth d ≤ d.cs.bits) &&
    decide (1 ≤ fxDestWidth d) && decide (fxDestWidth d ≤ d.cd.bits)

/-- Legality of FXU2S (R165): an unsigned source, ND zero, ns >= 1, and w = m + ns in both containers. -/
def fxu2sLegal (d : FxDesc) : Bool :=
  !d.signed && decide (d.nd = 0#5) && decide (1 ≤ d.ns.toNat) && decide (1 ≤ fxSourceWidth d) &&
    decide (fxSourceWidth d ≤ d.cs.bits) && decide (fxSourceWidth d ≤ d.cd.bits)

/-- Legality of FXS2U (R166): a signed source, ND zero, and w = 1 + m + ns in both containers. -/
def fxs2uLegal (d : FxDesc) : Bool :=
  d.signed && decide (d.nd = 0#5) && decide (fxSourceWidth d ≤ d.cs.bits) &&
    decide (fxSourceWidth d ≤ d.cd.bits)

/-- A32[31:C_S] is zero (R116, R161): the operand fits the source container. -/
def fxOperandFits (d : FxDesc) (a : BitVec 32) : Bool :=
  decide (a.toNat < 2 ^ d.cs.bits)

end Sys2Proof.Machine
end

