-- ==== Sys2Proof/WellFormed.lean ====
section
/-!
DEFINITION. Which terms of Instr name a legal command: the FX descriptor is legal for its opcode
(30_encoding.md R119) and the reserved bits of A32 are zero (R118, 40_fixedpoint.md R161). Every other
command is legal at every operand value (R113 to R115: each operand is a field whose every value is defined).
An ill-formed FX term is still decoded (R121) and executes by raising EILLEGAL (60_exceptions.md R337 items 4, 5).
-/
namespace Sys2Proof

/-- The instruction raises no EILLEGAL when it is executed. -/
def Instr.wellFormed : Instr → Bool
  | .init => true
  | .setf _ => true
  | .setp _ => true
  | .seta _ => true
  | .out => true
  | .step => true
  | .rdreg _ => true
  | .sine _ => true
  | .msine _ _ => true
  | .fxext d a => Machine.fxextLegal d && Machine.fxOperandFits d a
  | .fxshr d a => Machine.fxshrLegal d && Machine.fxOperandFits d a
  | .fxu2s d a => Machine.fxu2sLegal d && Machine.fxOperandFits d a
  | .fxs2u d a => Machine.fxs2uLegal d && Machine.fxOperandFits d a
  | .isqrt _ => true

end Sys2Proof
end

