-- ==== Sys2Proof/Decode.lean ====
section
/-!
DEFINITION. Decoding a command word (30_encoding.md R110 to R121): total, rejecting by name; then the
encoder, the opcode table's masks and matches, and the host's `decodeTableWord`.
The descriptor legality of an FX command and its A32 bits are not part of decoding: R121 decodes the word to
its command, and 60_exceptions.md R337 checks them next, when the command is executed.
-/
namespace Sys2Proof

/-- Why a word names no command (60_exceptions.md R337 items 2 and 3). -/
inductive DecodeReject where
  /-- OPC is 0x0 or 0xF (R120) -/
  | reservedOpcode
  /-- a bit the opcode's format marks 0 is set (R118) -/
  | reservedBits
deriving DecidableEq, Repr

/-- CW[lo+len-1:lo] (00_scope.md R13). -/
def field (w : CmdWord) (lo len : Nat) : BitVec len := w.extractLsb' lo len

/-- The register with a 4-bit index (10_state.md R31); every index names one. -/
def Reg.ofIndex (i : BitVec 4) : Reg :=
  match i.toNat with
  | 0 => .freq
  | 1 => .phi
  | 2 => .att
  | 3 => .status
  | 4 => .phi0
  | 5 => .val0
  | 6 => .phi1
  | 7 => .val1
  | 8 => .steps
  | 9 => .sampl
  | 10 => .msize
  | 11 => .asize
  | 12 => .sidx
  | 13 => .ridx
  | 14 => .aidx
  | _ => .cfg

/-- The index of a register (R31). -/
def Reg.index : Reg → BitVec 4
  | .freq => 0
  | .phi => 1
  | .att => 2
  | .status => 3
  | .phi0 => 4
  | .val0 => 5
  | .phi1 => 6
  | .val1 => 7
  | .steps => 8
  | .sampl => 9
  | .msize => 10
  | .asize => 11
  | .sidx => 12
  | .ridx => 13
  | .aidx => 14
  | .cfg => 15

/-- The container a 2-bit code selects (R117). -/
def CWidth.ofCode (c : BitVec 2) : CWidth :=
  match c.toNat with
  | 0 => .c8
  | 1 => .c16
  | 2 => .c22
  | _ => .c32

/-- The 2-bit code of a container (R117). -/
def CWidth.code : CWidth → BitVec 2
  | .c8 => 0
  | .c16 => 1
  | .c22 => 2
  | .c32 => 3

/-- Format N (R112): CW[59:0] must be 0. -/
def decodeN (i : Instr) (w : CmdWord) : Except DecodeReject Instr :=
  if field w 0 60 = 0 then .ok i else .error .reservedBits

/-- Format U16 (R113): IMM16 = CW[15:0], CW[59:16] must be 0. -/
def decodeU16 (mk : Word → Instr) (w : CmdWord) : Except DecodeReject Instr :=
  if field w 16 44 = 0 then .ok (mk (field w 0 16)) else .error .reservedBits

/-- Format AB (R114): A16 = CW[15:0], B16 = CW[47:32], CW[59:48] and CW[31:16] must be 0. -/
def decodeAB (mk : Word → Word → Instr) (w : CmdWord) : Except DecodeReject Instr :=
  if field w 48 12 = 0 ∧ field w 16 16 = 0 then .ok (mk (field w 0 16) (field w 32 16))
  else .error .reservedBits

/-- Format R (R115): REG = CW[35:32], CW[59:36] and CW[31:0] must be 0. -/
def decodeR (mk : Reg → Instr) (w : CmdWord) : Except DecodeReject Instr :=
  if field w 36 24 = 0 ∧ field w 0 32 = 0 then .ok (mk (Reg.ofIndex (field w 32 4)))
  else .error .reservedBits

/-- The descriptor fields of format FX (R116, 40_fixedpoint.md R160). -/
def decodeDesc (w : CmdWord) : FxDesc where
  signed := field w 59 1 = 1
  m      := field w 54 5
  ns     := field w 49 5
  nd     := field w 44 5
  cs     := CWidth.ofCode (field w 42 2)
  cd     := CWidth.ofCode (field w 40 2)

/-- Format FX (R116): CW[39:32] must be 0, A32 = CW[31:0]. -/
def decodeFX (mk : FxDesc → BitVec 32 → Instr) (w : CmdWord) : Except DecodeReject Instr :=
  if field w 32 8 = 0 then .ok (mk (decodeDesc w) (field w 0 32)) else .error .reservedBits

/-- Decoding (R111, R121): the opcode selects the format; a reserved opcode or a reserved bit is rejected. -/
def decode (w : CmdWord) : Except DecodeReject Instr :=
  match (field w 60 4).toNat with
  | 0x1 => decodeN .init w
  | 0x2 => decodeU16 .setf w
  | 0x3 => decodeU16 .setp w
  | 0x4 => decodeU16 .seta w
  | 0x5 => decodeN .out w
  | 0x6 => decodeN .step w
  | 0x7 => decodeR .rdreg w
  | 0x8 => decodeU16 .sine w
  | 0x9 => decodeAB .msine w
  | 0xA => decodeFX .fxext w
  | 0xB => decodeFX .fxshr w
  | 0xC => decodeFX .fxu2s w
  | 0xD => decodeFX .fxs2u w
  | 0xE => decodeU16 .isqrt w
  | _   => .error .reservedOpcode

/-! ## The encoder, written from the layouts of R112 to R116 -/

/-- Format N (R112). -/
def encodeN (opc : BitVec 4) : CmdWord := opc ++ 0#60

/-- Format U16 (R113). -/
def encodeU16 (opc : BitVec 4) (imm : Word) : CmdWord := opc ++ 0#44 ++ imm

/-- Format AB (R114). -/
def encodeAB (opc : BitVec 4) (a b : Word) : CmdWord := opc ++ 0#12 ++ b ++ 0#16 ++ a

/-- Format R (R115). -/
def encodeR (opc : BitVec 4) (r : Reg) : CmdWord := opc ++ 0#24 ++ r.index ++ 0#32

/-- Format FX (R116). -/
def encodeFX (opc : BitVec 4) (d : FxDesc) (a : BitVec 32) : CmdWord :=
  opc ++ BitVec.ofBool d.signed ++ d.m ++ d.ns ++ d.nd ++ d.cs.code ++ d.cd.code ++ 0#8 ++ a

/-- The command word of an instruction (R111 to R116). -/
def encode : Instr → CmdWord
  | .init => encodeN 0x1
  | .setf imm => encodeU16 0x2 imm
  | .setp imm => encodeU16 0x3 imm
  | .seta imm => encodeU16 0x4 imm
  | .out => encodeN 0x5
  | .step => encodeN 0x6
  | .rdreg r => encodeR 0x7 r
  | .sine phi => encodeU16 0x8 phi
  | .msine phi att => encodeAB 0x9 phi att
  | .fxext d a => encodeFX 0xA d a
  | .fxshr d a => encodeFX 0xB d a
  | .fxu2s d a => encodeFX 0xC d a
  | .fxs2u d a => encodeFX 0xD d a
  | .isqrt x => encodeU16 0xE x

/-! ## The opcode table -/

/-- A row of spec/opcode_table.json: a word matches when its masked bits equal `value` (R121). -/
structure TableRow where
  mnemonic : String
  mask     : CmdWord
  value    : CmdWord
deriving DecidableEq, Repr

/-- The word matches the row (R121: (W & mask) = match). -/
def TableRow.matchesWord (r : TableRow) (w : CmdWord) : Bool := w &&& r.mask = r.value

/-- The fourteen rows of spec/opcode_table.json, in the table's order. -/
def opcodeTable : List TableRow :=
  [ ⟨"INIT", 0xFFFFFFFFFFFFFFFF, 0x1000000000000000⟩,
    ⟨"SETF", 0xFFFFFFFFFFFF0000, 0x2000000000000000⟩,
    ⟨"SETP", 0xFFFFFFFFFFFF0000, 0x3000000000000000⟩,
    ⟨"SETA", 0xFFFFFFFFFFFF0000, 0x4000000000000000⟩,
    ⟨"OUT", 0xFFFFFFFFFFFFFFFF, 0x5000000000000000⟩,
    ⟨"STEP", 0xFFFFFFFFFFFFFFFF, 0x6000000000000000⟩,
    ⟨"RDREG", 0xFFFFFFF0FFFFFFFF, 0x7000000000000000⟩,
    ⟨"SINE", 0xFFFFFFFFFFFF0000, 0x8000000000000000⟩,
    ⟨"MSINE", 0xFFFF0000FFFF0000, 0x9000000000000000⟩,
    ⟨"FXEXT", 0xF00000FF00000000, 0xA000000000000000⟩,
    ⟨"FXSHR", 0xF00000FF00000000, 0xB000000000000000⟩,
    ⟨"FXU2S", 0xF00000FF00000000, 0xC000000000000000⟩,
    ⟨"FXS2U", 0xF00000FF00000000, 0xD000000000000000⟩,
    ⟨"ISQRT", 0xFFFFFFFFFFFF0000, 0xE000000000000000⟩ ]

/-- The mnemonic of an instruction (R111). -/
def Instr.mnemonic : Instr → String
  | .init => "INIT"
  | .setf _ => "SETF"
  | .setp _ => "SETP"
  | .seta _ => "SETA"
  | .out => "OUT"
  | .step => "STEP"
  | .rdreg _ => "RDREG"
  | .sine _ => "SINE"
  | .msine _ _ => "MSINE"
  | .fxext _ _ => "FXEXT"
  | .fxshr _ _ => "FXSHR"
  | .fxu2s _ _ => "FXU2S"
  | .fxs2u _ _ => "FXS2U"
  | .isqrt _ => "ISQRT"

/-- A 64-bit command word from the host's numbering: bit 0 of w is CW[0], the bits at and above nbits are 0.
A command word moves whole (20_memory.md R88), so no byte order enters. -/
def tableWord (nbits w : Nat) : CmdWord := BitVec.ofNat 64 (w % 2 ^ nbits)

/-- The instruction the decoder reads from a table row's word; none where it rejects it. -/
def decodeTableWord (nbits w : Nat) : Option Instr := (decode (tableWord nbits w)).toOption

end Sys2Proof
end

