-- ==== Sys2Proof/Config.lean ====
section
/-!
DEFINITION. What an instance of SWG-CORE fixes: the constants of 00_scope.md R10, the parameters of R11
with their defaults, and the contents of the two read-only tables (20_memory.md R84, R86).
The parameters are plain data, so that State can hold them and a statement can quantify over them
(DESIGN CHOICE, notes/assumptions/1.md and 2.md).
-/
namespace Sys2Proof

namespace Config

/-! ## The constants of R10 -/

/-- LUT_SHIFT: folded phase code bits below the ROM index. -/
def lutShift : Nat := 6
/-- LUT_FRAC_MASK: the interpolation remainder mask. -/
def lutFracMask : Nat := 0x3F
/-- FREQ_MAX: the largest legal FREQ. -/
def freqMax : Nat := 0x4000
/-- SCAN_PHASE_BOUND: the phase distance one scan may cover. -/
def scanPhaseBound : Nat := 0x4000
/-- SCAN_STEP_BOUND: the iterations one scan may take. -/
def scanStepBound : Nat := 0x4000
/-- The inputs ROM_ISQRT covers lie below this (R86). -/
def isqrtLimit : Nat := 0x4000
/-- STEPS_MIN: the smallest tiling size that activates a schedule. -/
def stepsMin : Nat := 2
/-- MAX_STEP_DELTA: the largest plateau-to-plateau change that is smoothed. -/
def maxStepDelta : Nat := 1

/-! ## The tables -/

/-- The rows of 20_memory.md R84, the default contents of ROM_SINE. -/
def sineRows : List Nat :=
  [0x0000, 0x0192, 0x0324, 0x04B6, 0x0648, 0x07DA, 0x096C, 0x0AFE] ++
  [0x0C90, 0x0E21, 0x0FB3, 0x1144, 0x12D5, 0x1466, 0x15F7, 0x1787] ++
  [0x1918, 0x1AA8, 0x1C38, 0x1DC7, 0x1F56, 0x20E5, 0x2274, 0x2402] ++
  [0x2590, 0x271E, 0x28AB, 0x2A38, 0x2BC4, 0x2D50, 0x2EDC, 0x3067] ++
  [0x31F1, 0x337C, 0x3505, 0x368E, 0x3817, 0x399F, 0x3B27, 0x3CAE] ++
  [0x3E34, 0x3FBA, 0x413F, 0x42C3, 0x4447, 0x45CB, 0x474D, 0x48CF] ++
  [0x4A50, 0x4BD1, 0x4D50, 0x4ECF, 0x504D, 0x51CB, 0x5348, 0x54C3] ++
  [0x563E, 0x57B9, 0x5932, 0x5AAA, 0x5C22, 0x5D99, 0x5F0F, 0x6084] ++
  [0x61F8, 0x636B, 0x64DD, 0x664E, 0x67BE, 0x692D, 0x6A9B, 0x6C08] ++
  [0x6D74, 0x6EDF, 0x7049, 0x71B2, 0x731A, 0x7480, 0x75E6, 0x774A] ++
  [0x78AD, 0x7A10, 0x7B70, 0x7CD0, 0x7E2F, 0x7F8C, 0x80E8, 0x8243] ++
  [0x839C, 0x84F5, 0x864C, 0x87A1, 0x88F6, 0x8A49, 0x8B9A, 0x8CEB] ++
  [0x8E3A, 0x8F88, 0x90D4, 0x921F, 0x9368, 0x94B0, 0x95F7, 0x973C] ++
  [0x9880, 0x99C2, 0x9B03, 0x9C42, 0x9D80, 0x9EBC, 0x9FF7, 0xA130] ++
  [0xA268, 0xA39E, 0xA4D2, 0xA605, 0xA736, 0xA866, 0xA994, 0xAAC1] ++
  [0xABEB, 0xAD14, 0xAE3C, 0xAF62, 0xB086, 0xB1A8, 0xB2C9, 0xB3E8] ++
  [0xB505, 0xB620, 0xB73A, 0xB852, 0xB968, 0xBA7D, 0xBB8F, 0xBCA0] ++
  [0xBDAF, 0xBEBC, 0xBFC7, 0xC0D1, 0xC1D8, 0xC2DE, 0xC3E2, 0xC4E4] ++
  [0xC5E4, 0xC6E2, 0xC7DE, 0xC8D9, 0xC9D1, 0xCAC7, 0xCBBC, 0xCCAE] ++
  [0xCD9F, 0xCE8E, 0xCF7A, 0xD065, 0xD14D, 0xD234, 0xD318, 0xD3FB] ++
  [0xD4DB, 0xD5BA, 0xD696, 0xD770, 0xD848, 0xD91E, 0xD9F2, 0xDAC4] ++
  [0xDB94, 0xDC62, 0xDD2D, 0xDDF7, 0xDEBE, 0xDF83, 0xE046, 0xE107] ++
  [0xE1C6, 0xE282, 0xE33C, 0xE3F4, 0xE4AA, 0xE55E, 0xE610, 0xE6BF] ++
  [0xE76C, 0xE817, 0xE8BF, 0xE966, 0xEA0A, 0xEAAB, 0xEB4B, 0xEBE8] ++
  [0xEC83, 0xED1C, 0xEDB3, 0xEE47, 0xEED9, 0xEF68, 0xEFF5, 0xF080] ++
  [0xF109, 0xF18F, 0xF213, 0xF295, 0xF314, 0xF391, 0xF40C, 0xF484] ++
  [0xF4FA, 0xF56E, 0xF5DF, 0xF64E, 0xF6BA, 0xF724, 0xF78C, 0xF7F1] ++
  [0xF854, 0xF8B4, 0xF913, 0xF96E, 0xF9C8, 0xFA1F, 0xFA73, 0xFAC5] ++
  [0xFB15, 0xFB62, 0xFBAD, 0xFBF5, 0xFC3B, 0xFC7F, 0xFCC0, 0xFCFE] ++
  [0xFD3B, 0xFD74, 0xFDAC, 0xFDE1, 0xFE13, 0xFE43, 0xFE71, 0xFE9C] ++
  [0xFEC4, 0xFEEB, 0xFF0E, 0xFF30, 0xFF4E, 0xFF6B, 0xFF85, 0xFF9C] ++
  [0xFFB1, 0xFFC4, 0xFFD4, 0xFFE1, 0xFFEC, 0xFFF5, 0xFFFB, 0xFFFF]

theorem sineRows_length : sineRows.length = 256 := by decide +kernel

/-- The default of P_SINE_LUT (R83, R84): 256 entries of 16 bits. -/
def sineDefault : Vector Word 256 :=
  ⟨(sineRows.map (BitVec.ofNat 16)).toArray, by rw [List.size_toArray, List.length_map, sineRows_length]⟩

/-- ROM_ISQRT (20_memory.md R86): 128 entries of 15 bits, entry k is (k+1)^2. -/
def isqrtRom : Vector (BitVec 15) 128 :=
  ⟨((List.range 128).map fun k => BitVec.ofNat 15 ((k + 1) ^ 2)).toArray, by simp⟩

end Config

/-! ## The parameters of R11 -/

/-- P_ISQRT_OVER (43_smoother.md R292): the isqrt unit's result for inputs at or above 0x4000. -/
inductive IsqrtOver where
  | sat127
  | exact
deriving DecidableEq, Repr

/-- P_PRECOND_MODE (60_exceptions.md R330, R336): how an error is reported. -/
inductive PrecondMode where
  | error
  | halt
deriving DecidableEq, Repr

/-- One argument tuple of P_TILE (R11): the window sample and the four schedule parameters. -/
structure TileArgs where
  s     : Nat
  sampl : Nat
  steps : Nat
  msize : Nat
  asize : Nat
deriving DecidableEq, Repr

/-- P_TILE (R296) as plain data: the default pattern, or any other function of the five arguments,
written as the list of argument tuples at which it is true (DESIGN CHOICE, notes/assumptions/2.md). -/
inductive TileParam where
  | default
  | table (ones : List TileArgs)
deriving DecidableEq, Repr

/-- The parameters of one instance (R11), but for P_LATENCY, on which no rule depends (R379). -/
structure Params where
  /-- P_PP_ENABLE -/
  ppEnable  : Bool
  /-- P_SINE_LUT, the contents of ROM_SINE (R83) -/
  sineLut   : Vector Word 256
  /-- P_LUT_TOP, an integer in [0, 0x10000] (R85) -/
  lutTop    : Fin 0x10001
  /-- P_ISQRT_OVER -/
  isqrtOver : IsqrtOver
  /-- P_TILE -/
  tile      : TileParam
  /-- P_RESCAN -/
  rescan    : Bool
  /-- P_PRECOND_MODE -/
  precond   : PrecondMode
deriving DecidableEq, Repr

/-- The defaults of R11. -/
def Params.default : Params where
  ppEnable  := true
  sineLut   := Config.sineDefault
  lutTop    := 0x10000
  isqrtOver := .sat127
  tile      := .default
  rescan    := false
  precond   := .error

end Sys2Proof
end

