-- ==== Sys2Proof/Machine/State.lean ====
section
/-!
DEFINITION. The state of SWG-CORE: the registers, the hidden bit and the tables of 10_state.md R30, the
parameters of the instance (00_scope.md R11), and the host's side of the interface (10_state.md R49,
70_reset_and_hazards.md R378). INVENTORY.md, '## State', names the rule and the reset value of each field.
-/
namespace Sys2Proof.Machine

/-- RSP_STATUS (60_exceptions.md R331); the code 0b11 is never produced, so a status has three values. -/
inductive Status where
  | ok
  | einval
  | eillegal
deriving DecidableEq, Repr

/-- One response (30_encoding.md R122): a status and a data word. -/
structure Response where
  status : Status
  data   : RspData
deriving DecidableEq, Repr

/-- Why the machine stops. -/
inductive Fault where
  /-- Raised by `step` and `runCommand` of a halted block: it accepts no command until reset
  (60_exceptions.md R336, "a stuck state"; 70_reset_and_hazards.md R385, "A halted end is a fault").
  Safe: the block itself does nothing more. -/
  | halted
deriving DecidableEq, Repr

/-- Why an instruction has no meaning. -/
inductive Refusal where
  /-- Raised by an arm of `exec` whose instruction has no meaning yet; no arm is left so. Safe: the model
  stops where the hardware goes on. -/
  | notModelled (mnemonic : String)
deriving DecidableEq, Repr

/-- The state between two commands. -/
structure State where
  /-- FREQ (R32) -/
  freq  : Word
  /-- PHI (R33) -/
  phi   : Word
  /-- ATT (R34) -/
  att   : Word
  /-- STATUS.PP (R35, bit 0) -/
  pp    : Bool
  /-- STATUS.FAULT (R35, bit 1) -/
  fault : Bool
  /-- PHI0 (R36) -/
  phi0  : Word
  /-- VAL0 (R37), an SQ0.15 code as a 16-bit pattern -/
  val0  : Word
  /-- PHI1 (R38) -/
  phi1  : Word
  /-- VAL1 (R39), an SQ0.15 code as a 16-bit pattern -/
  val1  : Word
  /-- STEPS (R40) -/
  steps : Word
  /-- SAMPL (R41) -/
  sampl : Word
  /-- MSIZE (R42) -/
  msize : Word
  /-- ASIZE (R43) -/
  asize : Word
  /-- SIDX (R44) -/
  sidx  : Word
  /-- RIDX (R45) -/
  ridx  : Word
  /-- AIDX (R46) -/
  aidx  : Word
  /-- HALTED (R51) -/
  halted : Bool
  /-- The parameters of the instance (R11); CFG (R47) and ROM_SINE (R83) are read from them. -/
  params : Params
  /-- ROM_ISQRT (R86) -/
  romIsqrt : Vector (BitVec 15) 128
  /-- The host's command list (R49) -/
  program : List CmdWord
  /-- The index of the next command in it (R49) -/
  pos : Nat
  /-- The responses given, oldest first (R122, R378) -/
  responses : List Response
deriving DecidableEq, Repr

/-- The state after reset of an instance with parameters `p` (70_reset_and_hazards.md R371), no command
offered yet (DESIGN CHOICE, notes/assumptions/3.md and 4.md). -/
def State.powerOn (p : Params) : State where
  freq := 0
  phi := 0
  att := 0
  pp := false
  fault := false
  phi0 := 0
  val0 := 0
  phi1 := 0
  val1 := 0
  steps := 0
  sampl := 0
  msize := 0
  asize := 0
  sidx := 0
  ridx := 0
  aidx := 0
  halted := false
  params := p
  romIsqrt := Config.isqrtRom
  program := []
  pos := 0
  responses := []

/-- The machine right after reset (R371), with the default parameters (R11). -/
def State.reset : State := State.powerOn Params.default

end Sys2Proof.Machine
end

