-- ==== Sys2Proof/Machine/Flags.lean ====
section
/-!
DEFINITION. The two registers made of fields: STATUS (10_state.md R35) and CFG (R47). SWG-CORE has no condition
codes (R50); its only flags are STATUS.PP, written by the smoother, and STATUS.FAULT, written by the error path. With them, the codes of a response's status.
-/
namespace Sys2Proof.Machine

/-- A word from its bits, bit 0 first; the bits above are 0. -/
def wordOfBits : List Bool → Nat
  | [] => 0
  | b :: bs => b.toNat + 2 * wordOfBits bs

/-- STATUS (R35): PP in bit 0, FAULT in bit 1, bits 15:2 read as 0. -/
def statusWord (s : State) : Word := BitVec.ofNat 16 (wordOfBits [s.pp, s.fault])

/-- CFG (R47): PP_ENABLE, RESCAN, ISQRT_EXACT, PRECOND_HALT in bits 0 to 3, bits 15:4 read as 0. -/
def cfgWord (p : Params) : Word :=
  BitVec.ofNat 16
    (wordOfBits [p.ppEnable, p.rescan, decide (p.isqrtOver = .exact), decide (p.precond = .halt)])

/-- The two bits of RSP_STATUS (60_exceptions.md R331). -/
def Status.code : Status → BitVec 2
  | .ok => 0b00
  | .einval => 0b01
  | .eillegal => 0b10

end Sys2Proof.Machine
end

