-- ==== Sys2Proof/Machine/Operands.lean ====
section
/-!
DEFINITION. Reading operands: the registers by name (10_state.md R31), and the fixed-point containers of the FX
commands (00_scope.md R14, R17; 40_fixedpoint.md R161, R162).
-/
namespace Sys2Proof.Machine

/-- The word RDREG reads for a register (R31, R246). -/
def readReg (s : State) : Reg → Word
  | .freq => s.freq
  | .phi => s.phi
  | .att => s.att
  | .status => statusWord s
  | .phi0 => s.phi0
  | .val0 => s.val0
  | .phi1 => s.phi1
  | .val1 => s.val1
  | .steps => s.steps
  | .sampl => s.sampl
  | .msize => s.msize
  | .asize => s.asize
  | .sidx => s.sidx
  | .ridx => s.ridx
  | .aidx => s.aidx
  | .cfg => cfgWord s.params

/-- bits_16(v) of R14: the 16-bit two's-complement pattern of v. -/
def bits16 (v : Int) : Word := BitVec.ofInt 16 v

/-- sint_C(b) of R14, for a C-bit pattern given as a number below 2^C. -/
def sintOf (c b : Nat) : Int := if b < 2 ^ (c - 1) then (b : Int) else (b : Int) - 2 ^ c

/-- The code of a container of width c that holds the pattern b (R17). -/
def containerCode (signed : Bool) (c b : Nat) : Int := if signed then sintOf c b else (b : Int)

/-- The range of the codes of a format of width w (R16): [-2^(w-1), 2^(w-1)) signed, [0, 2^w) unsigned. -/
def inFormat (signed : Bool) (w : Nat) (c : Int) : Bool :=
  if signed then decide (-(2 ^ (w - 1) : Int) ≤ c) && decide (c < 2 ^ (w - 1))
  else decide (0 ≤ c) && decide (c < 2 ^ w)

/-- The two errors a command can raise (60_exceptions.md R332, R333). -/
inductive Err where
  | einval
  | eillegal
deriving DecidableEq, Repr

/-- The source read and canonical check (R161): the source code, or the error raised. -/
def fxRead (d : FxDesc) (a : BitVec 32) : Except Err Int :=
  if fxOperandFits d a then
    if inFormat d.signed (fxSourceWidth d) (containerCode d.signed d.cs.bits a.toNat) then
      .ok (containerCode d.signed d.cs.bits a.toNat)
    else .error .einval
  else .error .eillegal

/-- The result write (R162): zext_32(bits_C_D(c)). -/
def fxWrite (cd : CWidth) (c : Int) : RspData := BitVec.ofInt 32 (c % 2 ^ cd.bits)

end Sys2Proof.Machine
end

