-- ==== Sys2Proof/Machine/Ops.lean ====
section
/-!
DEFINITION. The named operations over the state: the response that ends a command (30_encoding.md R122), the
register writes of the commands and of the smoother, raising an error (60_exceptions.md R334 to R336), and the
reset event (70_reset_and_hazards.md R370 to R373). SWG-CORE has no memory to write (20_memory.md R80).
-/
namespace Sys2Proof.Machine

/-- respond(status, data) of 00_scope.md R15: the command ends with its response (R122), and the host's index
advances by exactly one (10_state.md R49). -/
def State.respond (st : Status) (data : RspData) (s : State) : State :=
  { s with responses := s.responses ++ [⟨st, data⟩], pos := s.pos + 1 }

/-- FREQ <- v -/
def State.setFreq (v : Word) (s : State) : State := { s with freq := v }

/-- PHI <- v -/
def State.setPhi (v : Word) (s : State) : State := { s with phi := v }

/-- ATT <- v -/
def State.setAtt (v : Word) (s : State) : State := { s with att := v }

/-- SIDX <- v -/
def State.setSidx (v : Word) (s : State) : State := { s with sidx := v }

/-- PHI0 <- p; VAL0 <- v -/
def State.setBoundary (p v : Word) (s : State) : State := { s with phi0 := p, val0 := v }

/-- CLEAR (43_smoother.md R285): STATUS.PP and the schedule registers become 0; PHI0, VAL0 and SIDX are kept. -/
def State.clear (s : State) : State :=
  { s with
    pp := false
    phi1 := 0
    val1 := 0
    steps := 0
    sampl := 0
    msize := 0
    asize := 0
    ridx := 0
    aidx := 0 }

/-- A window the smoother has found (R286 steps 4 and 5): its length, its number of groups, its new value. -/
structure Window where
  sampl : Nat
  steps : Nat
  val1  : Int
deriving DecidableEq, Repr

/-- ACTIVATE (43_smoother.md R294, R297). -/
def State.activate (w : Window) (s : State) : State :=
  { s with
    pp := true
    phi1 := s.phi0 + BitVec.ofNat 16 (w.sampl * s.freq.toNat)
    val1 := bits16 w.val1
    steps := BitVec.ofNat 16 w.steps
    sampl := BitVec.ofNat 16 w.sampl
    msize := BitVec.ofNat 16 (w.sampl / w.steps)
    asize := BitVec.ofNat 16 (w.sampl % w.steps)
    aidx := BitVec.ofNat 16 ((w.steps - 1) * (w.sampl / w.steps))
    ridx := BitVec.ofNat 16 ((w.steps - 1) * (w.sampl / w.steps) + w.sampl % w.steps) }

/-- STATUS.FAULT <- 1 (60_exceptions.md R335). -/
def State.markFault (s : State) : State := { s with fault := true }

/-- HALTED <- 1 (60_exceptions.md R336). -/
def State.halt (s : State) : State := { s with halted := true }

/-- The status code of an error (R331). -/
def Err.status : Err → Status
  | .einval => .einval
  | .eillegal => .eillegal

/-- raise EINVAL and raise EILLEGAL: the one error path (R334 to R336, R340). It sets STATUS.FAULT and writes no
other register. In ERROR mode the command is answered by its status with data 0; in HALT mode it gets no
response, HALTED is set, and the host's index stays (DEDUCED from R49, notes/assumptions/5.md).
There is no return from an error (R341): the next command runs on this state. -/
def State.raise (e : Err) (s : State) : State :=
  match s.params.precond with
  | .error => s.markFault.respond e.status 0
  | .halt => s.markFault.halt

/-- A command that reads its operands and writes no register ends so: with its data, or with its error. -/
def State.finish (r : Except Err RspData) (s : State) : State :=
  match r with
  | .ok data => s.respond .ok data
  | .error e => s.raise e

/-- rst_n = 0 (70_reset_and_hazards.md R370 to R372): every register takes its reset value; the parameters and the
tables are not written (R371, R373); a new run starts, nothing offered and nothing answered (R372, R385). -/
def State.assertReset (s : State) : State :=
  { State.powerOn s.params with romIsqrt := s.romIsqrt }

end Sys2Proof.Machine
end

