-- ==== Sys2Proof/Machine/Fixedpoint.lean ====
section
/-!
DEFINITION. The fixed-point converter (40_fixedpoint.md): FXEXT, FXSHR, FXU2S, FXS2U. Each is the common frame of
R160 to R162 around its own legality and its own arithmetic on the source code.
-/
namespace Sys2Proof.Machine

/-- The frame of the four commands: legality (60_exceptions.md R337 item 4), the source read (items 5 and 6,
R161), the conversion, the result write (R162). `conv` answers none where the command raises EINVAL itself. -/
def fxResult (legal : Bool) (conv : Int → Option Int) (d : FxDesc) (a : BitVec 32) :
    Except Err RspData :=
  if legal then
    match fxRead d a with
    | .error e => .error e
    | .ok c =>
      match conv c with
      | none => .error .einval
      | some c' => .ok (fxWrite d.cd c')
  else .error .eillegal

/-- FXEXT's arithmetic (R163): c * 2^(nd - ns). -/
def fxextConv (d : FxDesc) (c : Int) : Option Int := some (c * 2 ^ (d.nd.toNat - d.ns.toNat))

/-- FXSHR's arithmetic (R164): c div 2^(ns - nd), rounding toward minus infinity. -/
def fxshrConv (d : FxDesc) (c : Int) : Option Int := some (c / 2 ^ (d.ns.toNat - d.nd.toNat))

/-- FXU2S's arithmetic (R165): c div 2. -/
def fxu2sConv (c : Int) : Option Int := some (c / 2)

/-- FXS2U's arithmetic (R166): 2 * c; a negative source is refused. -/
def fxs2uConv (c : Int) : Option Int := if c < 0 then none else some (2 * c)

/-- FXEXT (R163). -/
def execFxext (d : FxDesc) (a : BitVec 32) (s : State) : Host.Outcome State Fault Refusal :=
  .next (s.finish (fxResult (fxextLegal d) (fxextConv d) d a))

/-- FXSHR (R164). -/
def execFxshr (d : FxDesc) (a : BitVec 32) (s : State) : Host.Outcome State Fault Refusal :=
  .next (s.finish (fxResult (fxshrLegal d) (fxshrConv d) d a))

/-- FXU2S (R165). -/
def execFxu2s (d : FxDesc) (a : BitVec 32) (s : State) : Host.Outcome State Fault Refusal :=
  .next (s.finish (fxResult (fxu2sLegal d) fxu2sConv d a))

/-- FXS2U (R166). -/
def execFxs2u (d : FxDesc) (a : BitVec 32) (s : State) : Host.Outcome State Fault Refusal :=
  .next (s.finish (fxResult (fxs2uLegal d) fxs2uConv d a))

end Sys2Proof.Machine
end

