-- ==== Sys2Proof/Machine/Trig.lean ====
section
/-!
DEFINITION. The trigonometric engine (41_trig.md): folding, interpolation, the sine and the modulated sine, and
the commands SINE (R209) and MSINE (R210). Values are exact integers (00_scope.md R14).
-/
namespace Sys2Proof.Machine

/-- mul16 (00_scope.md R19): the exact product, shifted right by 16. -/
def mul16 (a b : Nat) : Nat := (a * b) >>> 16

/-- A sign and a magnitude (R205): the magnitude is a UQ1.16 code. -/
structure SignMag where
  mag : Nat
  neg : Bool
deriving DecidableEq, Repr

/-- FOLD (R200): the folded code, and the sign that is set in the second half of the turn. -/
def fold (phi : Word) : SignMag :=
  match phi.toNat >>> 14 with
  | 0 => ⟨phi.toNat, false⟩
  | 1 => ⟨0x8000 - phi.toNat, false⟩
  | 2 => ⟨phi.toNat - 0x8000, true⟩
  | _ => ⟨0x10000 - phi.toNat, true⟩

/-- ROM_SINE[i], read with an 8-bit index (20_memory.md R81). -/
def sineEntry (p : Params) (i : Nat) : Nat := (p.sineLut.get (Fin.ofNat 256 i)).toNat

/-- The knot after entry i (R204): entry i + 1, or P_LUT_TOP after entry 255 (20_memory.md R85). -/
def nextKnot (p : Params) (i : Nat) : Nat :=
  if i < 255 then sineEntry p (i + 1) else p.lutTop.val

/-- The table index of a folded code (R202). -/
def lutIndex (f : Nat) : Nat := f >>> Config.lutShift

/-- The remainder of a folded code (R202). -/
def lutRem (f : Nat) : Nat := f &&& Config.lutFracMask

/-- The interpolation coefficient: the remainder widened from UQ0.6 to UQ0.16 (R202, 40_fixedpoint.md R169). -/
def lutCoef (f : Nat) : Nat := lutRem f <<< 10

/-- INTERP (R204): a knot is the entry itself; between knots, two floored products are added. -/
def interp (p : Params) (f : Nat) : Nat :=
  if lutRem f = 0 then sineEntry p (lutIndex f)
  else
    mul16 (sineEntry p (lutIndex f)) (0x10000 - lutCoef f) +
      mul16 (nextKnot p (lutIndex f)) (lutCoef f)

/-- SINE_FN (R205), the singular phases of R201 apart. -/
def sineFn (p : Params) (phi : Word) : SignMag :=
  if phi = 0x4000 then ⟨0x10000, false⟩
  else if phi = 0xC000 then ⟨0x10000, true⟩
  else ⟨interp p (fold phi).mag, (fold phi).neg⟩

/-- k = 0x10000 - att (R206), in [1, 0x10000]. -/
def attFactor (att : Word) : Nat := 0x10000 - att.toNat

/-- The scaled magnitude p of R206. -/
def scaledMag (p : Params) (phi att : Word) : Nat := mul16 (sineFn p phi).mag (attFactor att)

/-- A magnitude narrowed from UQ0.16 to SQ0.15 (R207): p >> 1, with the rounding-up correction. -/
def roundMag (q : Nat) : Nat :=
  if q % 2 = 1 ∧ q >>> 1 ≠ 0x7FFF then (q >>> 1) + 1 else q >>> 1

/-- A magnitude with its sign. -/
def applySign (neg : Bool) (m : Nat) : Int := if neg then -(m : Int) else (m : Int)

/-- MSINE_FN (R207): the SQ0.15 sample; the rails are returned only when the scaled magnitude is exactly 1.0. -/
def msineFn (p : Params) (phi att : Word) : Int :=
  if scaledMag p phi att = 0x10000 then (if (sineFn p phi).neg then -0x8000 else 0x7FFF)
  else applySign (sineFn p phi).neg (roundMag (scaledMag p phi att))

/-- The response data of SINE (R209, 30_encoding.md R123): the magnitude in bits 16:0, the sign in bit 17. -/
def sineData (v : SignMag) : RspData := BitVec.ofNat 32 (v.neg.toNat * 0x20000 + v.mag)

/-- The response data of a sample (30_encoding.md R123): zext_32(bits_16(v)). -/
def sampleData (v : Int) : RspData := (bits16 v).setWidth 32

/-- SINE (R209). -/
def execSine (phi : Word) (s : State) : Host.Outcome State Fault Refusal :=
  .next (s.respond .ok (sineData (sineFn s.params phi)))

/-- MSINE (R210). -/
def execMsine (phi att : Word) (s : State) : Host.Outcome State Fault Refusal :=
  .next (s.respond .ok (sampleData (msineFn s.params phi att)))

end Sys2Proof.Machine
end

