-- ==== Sys2Proof/Machine/Smoother.lean ====
section
/-!
DEFINITION. The quantization smoother (43_smoother.md): the isqrt unit, the forward scan, the lookahead, REBUILD,
RETIRE and the tiling classifier, and the command ISQRT (R302).
-/
namespace Sys2Proof.Machine

/-! ## The isqrt unit -/

/-- ISQRT_SEARCH (R291): the smallest index whose entry exceeds x. -/
def isqrtSearch (rom : Vector (BitVec 15) 128) (x : Nat) : Nat :=
  rom.toList.findIdx fun e => decide (x < e.toNat)

/-- floor(sqrt(x)) for a 16-bit x (R290, EXACT): the largest k up to 255 with k * k at most x. -/
def floorSqrt (x : Nat) : Nat := Nat.findGreatest (fun k => k * k ≤ x) 255

/-- ISQRT_FN (R290, R292). -/
def isqrtFn (s : State) (x : Nat) : Nat :=
  if x < Config.isqrtLimit then isqrtSearch s.romIsqrt x
  else
    match s.params.isqrtOver with
    | .sat127 => 127
    | .exact => floorSqrt x

/-! ## The lookahead -/

/-- What SCAN returns when it finds a transition (R282): the phase pt, the value there, the step count. -/
structure ScanHit where
  phase : Word
  val   : Int
  cnt   : Nat
deriving DecidableEq, Repr

/-- The loop of SCAN (R282), `cnt` steps taken, at phase `p`; `fuel` is what is left of SCAN_STEP_BOUND, so that
running out of it is the step budget of R283. `none` is "exhausted". -/
def scanLoop (prm : Params) (att freq : Word) (v0 : Int) : Nat → Word → Nat → Option ScanHit
  | 0, _, _ => none
  | fuel + 1, p, cnt =>
    if Config.scanPhaseBound < (cnt + 1) * freq.toNat then none
    else if msineFn prm (p + freq) att ≠ v0 then
      some ⟨p + freq, msineFn prm (p + freq) att, cnt + 1⟩
    else scanLoop prm att freq v0 fuel (p + freq) (cnt + 1)

/-- SCAN(p0, v0) (R282, R283): it reads FREQ and ATT and writes no register. -/
def scan (s : State) (p0 : Word) (v0 : Int) : Option ScanHit :=
  scanLoop s.params s.att s.freq v0 Config.scanStepBound p0 0

/-- The window LOOKAHEAD activates, if any (R286 steps 1 to 5; R284, R287, R288, R289, R293). -/
def findWindow (s : State) : Option Window :=
  if s.params.ppEnable = false ∨ s.freq = 0 then none
  else
    match scan s s.phi0 s.val0.toInt with
    | none => none
    | some h1 =>
      if Config.maxStepDelta < (h1.val - s.val0.toInt).natAbs then none
      else
        match scan s h1.phase h1.val with
        | none => none
        | some h2 =>
          if isqrtFn s (h1.cnt + h2.cnt / 2) < Config.stepsMin then none
          else some ⟨h1.cnt + h2.cnt / 2, isqrtFn s (h1.cnt + h2.cnt / 2), h1.val⟩

/-- LOOKAHEAD (R286): SIDX <- 0, CLEAR, then ACTIVATE when a window is found; every abort leaves the smoother
INACTIVE and raises nothing (60_exceptions.md R338). -/
def lookahead (s : State) : State :=
  match findWindow s with
  | none => (s.setSidx 0).clear
  | some w => ((s.setSidx 0).clear).activate w

/-- REBUILD (R281): the current phase becomes the boundary, and the lookahead runs from it. -/
def rebuild (s : State) : State :=
  lookahead (s.setBoundary s.phi (bits16 (msineFn s.params s.phi s.att)))

/-- RETIRE (R300): PHI0 <- PHI1, VAL0 <- VAL1, then LOOKAHEAD, whose CLEAR also gives STATUS.PP <- 0. -/
def retire (s : State) : State := lookahead (s.setBoundary s.phi1 s.val1)

/-! ## The tiling -/

/-- TILE_DEFAULT (R296): true where the window sample emits VAL1. -/
def tileDefault (t : TileArgs) : Bool :=
  if t.s < (t.steps - 1) * t.msize then decide (t.msize - t.s / t.msize ≤ t.s % t.msize)
  else if t.s < (t.steps - 1) * t.msize + t.asize then
    decide ((t.s - (t.steps - 1) * t.msize) % 2 = 1)
  else true

/-- P_TILE (R296). A function other than the default is given by its true points; R296 requires it false at
s = 0 and true at s = SAMPL - 1, so the list is not consulted there (DESIGN CHOICE, notes/assumptions/2.md). -/
def tile (p : TileParam) (t : TileArgs) : Bool :=
  match p with
  | .default => tileDefault t
  | .table ones =>
    if t.s = 0 then false
    else if t.s + 1 = t.sampl then true
    else ones.contains t

/-- The five arguments OUT gives P_TILE (R298). -/
def tileArgs (s : State) : TileArgs :=
  ⟨s.sidx.toNat, s.sampl.toNat, s.steps.toNat, s.msize.toNat, s.asize.toNat⟩

/-- The sample an active schedule emits (R298): VAL1 or VAL0, nothing between. -/
def tiledSample (s : State) : Int :=
  if tile s.params.tile (tileArgs s) then s.val1.toInt else s.val0.toInt

/-! ## The command -/

/-- ISQRT (R302). -/
def execIsqrt (x : Word) (s : State) : Host.Outcome State Fault Refusal :=
  .next (s.respond .ok (BitVec.ofNat 32 (isqrtFn s x.toNat)))

end Sys2Proof.Machine
end

