-- ==== Sys2Proof/Machine/Oscillator.lean ====
section
/-!
DEFINITION. The oscillator's commands (42_oscillator.md): INIT, SETF, SETP, SETA, STEP, OUT, RDREG.
-/
namespace Sys2Proof.Machine

/-- INIT (R240): every register but STATUS.FAULT and CFG takes its reset value. -/
def execInit (s : State) : Host.Outcome State Fault Refusal :=
  .next (((((((s.setFreq 0).setPhi 0).setAtt 0).setBoundary 0 0).clear).setSidx 0).respond .ok 0)

/-- SETF (R241): the range check comes before any write. -/
def execSetf (imm : Word) (s : State) : Host.Outcome State Fault Refusal :=
  if Config.freqMax < imm.toNat then .next (s.raise .einval)
  else .next ((rebuild (s.setFreq imm)).respond .ok 0)

/-- SETP (R242). -/
def execSetp (imm : Word) (s : State) : Host.Outcome State Fault Refusal :=
  .next ((rebuild (s.setPhi imm)).respond .ok 0)

/-- SETA (R243). -/
def execSeta (imm : Word) (s : State) : Host.Outcome State Fault Refusal :=
  .next ((rebuild (s.setAtt imm)).respond .ok 0)

/-- PHI and SIDX advance (R244): PHI by FREQ, SIDX by 1, both mod 2^16. -/
def advance (s : State) : State := (s.setPhi (s.phi + s.freq)).setSidx (s.sidx + 1)

/-- What follows the advance of STEP (R244, R299, R301): a window whose index has reached SAMPL retires; an
inactive smoother rebuilds only when P_RESCAN is true. -/
def afterAdvance (s : State) : State :=
  if s.pp ∧ s.sidx = s.sampl then retire s
  else if s.pp = false ∧ s.params.rescan then rebuild s
  else s

/-- STEP (R244): nothing changes while FREQ = 0. -/
def execStep (s : State) : Host.Outcome State Fault Refusal :=
  if s.freq = 0 then .next (s.respond .ok 0)
  else .next ((afterAdvance (advance s)).respond .ok 0)

/-- The sample OUT returns (R245). -/
def outputSample (s : State) : Int :=
  if s.pp then tiledSample s else msineFn s.params s.phi s.att

/-- OUT (R245). -/
def execOut (s : State) : Host.Outcome State Fault Refusal :=
  .next (s.respond .ok (sampleData (outputSample s)))

/-- RDREG (R246). -/
def execRdreg (r : Reg) (s : State) : Host.Outcome State Fault Refusal :=
  .next (s.respond .ok ((readReg s r).setWidth 32))

end Sys2Proof.Machine
end

