-- ==== Sys2Proof/Machine/Dispatch.lean ====
section
/-!
DEFINITION. The meaning of each command, by one direct call (30_encoding.md R111).
-/
namespace Sys2Proof.Machine

def exec (i : Instr) (s : State) : Host.Outcome State Fault Refusal :=
  match i with
  | .init => Sys2Proof.Machine.execInit s
  | .setf imm => Sys2Proof.Machine.execSetf imm s
  | .setp imm => Sys2Proof.Machine.execSetp imm s
  | .seta imm => Sys2Proof.Machine.execSeta imm s
  | .out => Sys2Proof.Machine.execOut s
  | .step => Sys2Proof.Machine.execStep s
  | .rdreg r => Sys2Proof.Machine.execRdreg r s
  | .sine phi => Sys2Proof.Machine.execSine phi s
  | .msine phi att => Sys2Proof.Machine.execMsine phi att s
  | .fxext d a => Sys2Proof.Machine.execFxext d a s
  | .fxshr d a => Sys2Proof.Machine.execFxshr d a s
  | .fxu2s d a => Sys2Proof.Machine.execFxu2s d a s
  | .fxs2u d a => Sys2Proof.Machine.execFxs2u d a s
  | .isqrt x => Sys2Proof.Machine.execIsqrt x s

end Sys2Proof.Machine
end

