-- ==== Sys2Proof/Machine/Command.lean ====
section
/-!
DEFINITION. One command word (70_reset_and_hazards.md R383: the step function from a state and a command word), a
list of them (the fold of R383), and fetching the host's next word (10_state.md R49).
-/
namespace Sys2Proof.Machine

/-- One command word on a state, in the check order of 60_exceptions.md R337: a halted block accepts none; a word
that names no command raises EILLEGAL; the rest is the command's own. -/
def runCommand (w : CmdWord) (s : State) : Host.Outcome State Fault Refusal :=
  if s.halted then .fault .halted
  else
    match decode w with
    | .ok i => exec i s
    | .error _ => .next (s.raise .eillegal)

/-- A host program applied in order (R383, "folding the step function over the command list"). -/
def runWords : List CmdWord → State → Host.Outcome State Fault Refusal
  | [], s => .next s
  | w :: ws, s =>
    match runCommand w s with
    | .next t => runWords ws t
    | .fault r => .fault r
    | .refused r => .refused r

/-- The host's next command word (R49): the one at its index; none when the list is exhausted (R385). -/
def fetch (s : State) : Option CmdWord := s.program[s.pos]?

/-- No command is offered: the block waits (R375), unless it is halted (R336). -/
def idle (s : State) : Host.Outcome State Fault Refusal :=
  if s.halted then .fault .halted else .next s

/-- The command list `ws` with the word at index n replaced by w, lengthened with zero words if it is shorter. -/
def placeAt (w : CmdWord) : Nat → List CmdWord → List CmdWord
  | 0, [] => [w]
  | 0, _ :: ws => w :: ws
  | n + 1, [] => 0 :: placeAt w n []
  | n + 1, x :: ws => x :: placeAt w n ws

/-- The host loads a program: the block is the one reset leaves, the index is 0 (R375, R383). -/
def State.load (ws : List CmdWord) (s : State) : State := { s.assertReset with program := ws }

end Sys2Proof.Machine
end

