-- ==== Sys2Proof/Machine/Step.lean ====
section
/-!
DEFINITION. The step: the host's next command word is executed whole (10_state.md R49, 70_reset_and_hazards.md R383).
-/
namespace Sys2Proof.Machine

/-- One step: the command at the host's index, or waiting when none is offered. -/
def step (s : State) : Host.Outcome State Fault Refusal :=
  match fetch s with
  | none => idle s
  | some w => runCommand w s

/-- The word is the host's next command, and the block can accept it (notes/assumptions/3.md). -/
def State.withFetchWord (s : State) (nbits w : Nat) : State :=
  { s with program := placeAt (tableWord nbits w) s.pos s.program, halted := false }

end Sys2Proof.Machine
end

