-- ==== Sys2Proof/Machine/Assembler.lean ====
section
/-!
DEFINITION. The assembler of 30_encoding.md R124 to R126: from one line of text to command words. It stands before
the host's command list; no step uses it. What R124 and R125 leave open of the text (blank lines,
spaces, digits, the letter case of numbers and formats, how the numbers of a format are written) is
notes/assumptions/11.md (DESIGN CHOICE).
-/
namespace Sys2Proof.Machine

/-! ## Tokens -/

/-- A token of a line. -/
inductive Token where
  /-- a mnemonic, a register name, a number or a format, in capitals -/
  | word (text : String)
  | comma
  | arrow
deriving DecidableEq, Repr

/-- The token collected so far, its characters last first; none when there is none. -/
def pendingToken (acc : List Char) : List Token :=
  if acc = [] then [] else [.word (String.ofList acc.reverse)]

/-- The tokens of a line: words are separated by spaces, tabs, a comma or an arrow. Every letter is read as its
capital: R124 says so of mnemonics and register names; of 0x, of hexadecimal digits and of the S, U, Q and C of a
format operand it is the model's choice (DESIGN CHOICE, notes/assumptions/11.md). -/
def tokensFrom (acc : List Char) : List Char → List Token
  | [] => pendingToken acc
  | '-' :: '>' :: cs => pendingToken acc ++ .arrow :: tokensFrom [] cs
  | c :: cs =>
    if c = ' ' ∨ c = '\t' then pendingToken acc ++ tokensFrom [] cs
    else if c = ',' then pendingToken acc ++ .comma :: tokensFrom [] cs
    else tokensFrom (c.toUpper :: acc) cs

/-- The tokens of a line of text. -/
def tokens (line : String) : List Token := tokensFrom [] line.toList

/-! ## Numbers -/

/-- The value of a digit, in capitals. -/
def digitValue (c : Char) : Nat :=
  if '0' ≤ c ∧ c ≤ '9' then c.toNat - '0'.toNat
  else if 'A' ≤ c ∧ c ≤ 'F' then c.toNat - 'A'.toNat + 10
  else 16

/-- The number that digits to a base write; none when a character is no digit of that base. -/
def digitsValue (base acc : Nat) : List Char → Option Nat
  | [] => some acc
  | c :: cs => if digitValue c < base then digitsValue base (acc * base + digitValue c) cs else none

/-- A number (R124): decimal, or 0x and hexadecimal, of one digit at least. -/
def numberOf : List Char → Option Nat
  | [] => none
  | ['0', 'X'] => none
  | '0' :: 'X' :: cs => digitsValue 16 0 cs
  | cs => digitsValue 10 0 cs

/-- A decimal number of one digit at least: the m and the n of a format operand. R125 shows them in decimal and does
not say whether R124's 0x form is allowed; the model takes decimal only (DESIGN CHOICE, notes/assumptions/11.md). -/
def decimalOf (cs : List Char) : Option Nat := if cs = [] then none else digitsValue 10 0 cs

/-- An immediate that fits its field; one that does not is an assembly error, never truncated (R124). -/
def fitted (width : Nat) (v : Option Nat) : Option (BitVec width) :=
  match v with
  | none => none
  | some n => if n < 2 ^ width then some (BitVec.ofNat width n) else none

/-- The immediate a word writes. -/
def immediate (width : Nat) (text : String) : Option (BitVec width) := fitted width (numberOf text.toList)

/-- A register: a name of 10_state.md R31, or its number 0 to 15 (R124). -/
def registerOf (text : String) : Option Reg :=
  match text with
  | "FREQ" => some .freq
  | "PHI" => some .phi
  | "ATT" => some .att
  | "STATUS" => some .status
  | "PHI0" => some .phi0
  | "VAL0" => some .val0
  | "PHI1" => some .phi1
  | "VAL1" => some .val1
  | "STEPS" => some .steps
  | "SAMPL" => some .sampl
  | "MSIZE" => some .msize
  | "ASIZE" => some .asize
  | "SIDX" => some .sidx
  | "RIDX" => some .ridx
  | "AIDX" => some .aidx
  | "CFG" => some .cfg
  | _ => (immediate 4 text).map Reg.ofIndex

/-! ## Format operands (R125) -/

/-- A format operand: signedness, integer bits, fractional bits, container. -/
structure FormatOperand where
  signed : Bool
  m      : Nat
  n      : Nat
  c      : CWidth
deriving DecidableEq, Repr

/-- The characters before the first `sep`, and those after it. -/
def splitAtFirst (sep : Char) : List Char → Option (List Char × List Char)
  | [] => none
  | c :: cs =>
    if c = sep then some ([], cs)
    else (splitAtFirst sep cs).map fun p => (c :: p.1, p.2)

/-- The container width that follows the letter C (R125, R117), written 8, 16, 22 or 32 and in no other way: whether
0x or leading zeros are allowed R125 does not say (DESIGN CHOICE, notes/assumptions/11.md). -/
def widthOf (text : List Char) : Option CWidth :=
  match text with
  | ['C', '8'] => some .c8
  | ['C', '1', '6'] => some .c16
  | ['C', '2', '2'] => some .c22
  | ['C', '3', '2'] => some .c32
  | _ => none

/-- What follows SQ or UQ (R125): the integer bits, a point, the fractional bits, a slash, the container. That its
numbers are taken in decimal only is the model's choice (`decimalOf`, `widthOf`; notes/assumptions/11.md). -/
def formatBody (signed : Bool) (cs : List Char) : Option FormatOperand :=
  match splitAtFirst '/' cs with
  | none => none
  | some (q, w) =>
    match splitAtFirst '.' q with
    | none => none
    | some (mm, nn) =>
      match decimalOf mm, decimalOf nn, widthOf w with
      | some m, some n, some c => some ⟨signed, m, n, c⟩
      | _, _, _ => none

/-- A format operand (R125), for example UQ0.16/C16. -/
def formatOf (text : String) : Option FormatOperand :=
  match text.toList with
  | 'S' :: 'Q' :: cs => formatBody true cs
  | 'U' :: 'Q' :: cs => formatBody false cs
  | _ => none

/-- The descriptor of FXEXT and FXSHR: `dst` has the signedness and the integer bits of `src` (R125). -/
def widthDescriptor (src dst : FormatOperand) : Option FxDesc :=
  if dst.signed = src.signed ∧ dst.m = src.m then
    match fitted 5 (some src.m), fitted 5 (some src.n), fitted 5 (some dst.n) with
    | some m, some ns, some nd => some ⟨src.signed, m, ns, nd, src.c, dst.c⟩
    | _, _, _ => none
  else none

/-- The descriptor of FXU2S and FXS2U, ND = 0 (R124); `agree` is the relation of the fractional bits of `src` and
`dst` (R125). -/
def signDescriptor (agree : Nat → Nat → Bool) (src dst : FormatOperand) : Option FxDesc :=
  if dst.signed = !src.signed ∧ dst.m = src.m ∧ agree src.n dst.n = true then
    match fitted 5 (some src.m), fitted 5 (some src.n) with
    | some m, some ns => some ⟨src.signed, m, ns, 0, src.c, dst.c⟩
    | _, _ => none
  else none

/-! ## Lines -/

/-- The descriptor of an FX mnemonic and its constructor; none for another mnemonic. -/
def conversionOf (mnemonic : String) (src dst : FormatOperand) (a : BitVec 32) : Option Instr :=
  match mnemonic with
  | "FXEXT" => (widthDescriptor src dst).map fun d => .fxext d a
  | "FXSHR" => (widthDescriptor src dst).map fun d => .fxshr d a
  | "FXU2S" => (signDescriptor (fun n n' => n' + 1 == n) src dst).map fun d => .fxu2s d a
  | "FXS2U" => (signDescriptor (fun n n' => n' == n + 1) src dst).map fun d => .fxs2u d a
  | _ => none

/-- A line of one word: format N, and the pseudo-instructions without operand (R126). -/
def assembleBare (mnemonic : String) : Option (List Instr) :=
  match mnemonic with
  | "INIT" => some [.init]
  | "OUT" => some [.out]
  | "STEP" => some [.step]
  | "PAUSE" => some [.setf 0]
  | "RDPHI" => some [.rdreg .phi]
  | "RDSTATUS" => some [.rdreg .status]
  | "SAMPLE" => some [.out, .step]
  | _ => none

/-- A line of a mnemonic and one operand: formats U16 and R, and U16TOS15 (R126). -/
def assembleOne (mnemonic a : String) : Option (List Instr) :=
  match mnemonic with
  | "SETF" => (immediate 16 a).map fun v => [.setf v]
  | "SETP" => (immediate 16 a).map fun v => [.setp v]
  | "SETA" => (immediate 16 a).map fun v => [.seta v]
  | "SINE" => (immediate 16 a).map fun v => [.sine v]
  | "ISQRT" => (immediate 16 a).map fun v => [.isqrt v]
  | "RDREG" => (registerOf a).map fun r => [.rdreg r]
  | "U16TOS15" =>
    (immediate 16 a).map fun v => [.fxu2s ⟨false, 0, 16, 0, .c16, .c16⟩ (v.setWidth 32)]
  | _ => none

/-- A line of a mnemonic and two operands: format AB. -/
def assembleTwo (mnemonic a b : String) : Option (List Instr) :=
  match mnemonic with
  | "MSINE" =>
    match immediate 16 a, immediate 16 b with
    | some phi, some att => some [.msine phi att]
    | _, _ => none
  | _ => none

/-- A line of a conversion: format FX. -/
def assembleConversion (mnemonic src dst a : String) : Option (List Instr) :=
  match formatOf src, formatOf dst, immediate 32 a with
  | some f, some g, some v => (conversionOf mnemonic f g v).map fun i => [i]
  | _, _, _ => none

/-- The commands of a line; none where it is an assembly error (R124 to R126). -/
def assembleTokens : List Token → Option (List Instr)
  | [.word m] => assembleBare m
  | [.word m, .word a] => assembleOne m a
  | [.word m, .word a, .comma, .word b] => assembleTwo m a b
  | [.word m, .word src, .arrow, .word dst, .comma, .word a] => assembleConversion m src dst a
  | _ => none

/-- The commands of a line of text. -/
def assembleLine (line : String) : Option (List Instr) := assembleTokens (tokens line)

/-- The command words of a program text, one line after another; none when a line is an assembly error. -/
def assemble : List String → Option (List CmdWord)
  | [] => some []
  | l :: ls =>
    match assembleLine l, assemble ls with
    | some is, some ws => some (is.map encode ++ ws)
    | _, _ => none

end Sys2Proof.Machine
end

