-- ==== Sys2Proof/Machine/Ports.lean ====
section
/-!
DEFINITION. The block behind its ports, one clock cycle at a time (70_reset_and_hazards.md R370, R372, R381, R382).
The latency P_LATENCY (R379) is an argument of the cycle function: no rule depends on it, and every statement holds
for each (notes/assumptions/6.md). `step` does not use this layer; R383 says the two agree at command boundaries.
-/
namespace Sys2Proof.Machine

/-- P_LATENCY (00_scope.md R11, R379): the cycles a command takes in the state before it; 0 is read as 1. -/
abbrev Latency := CmdWord → State → Nat

/-- The input ports of one cycle (R381). -/
structure PortIn where
  rstN     : Bool
  cmdValid : Bool
  cmdWord  : CmdWord
  rspReady : Bool
deriving DecidableEq, Repr

/-- The output ports of one cycle (R381); `rsp` is rsp_status and rsp_data while rsp_valid = 1, none while it is 0. -/
structure PortOut where
  cmdReady : Bool
  rsp      : Option Response
deriving DecidableEq, Repr

/-- rsp_valid (R381). -/
def PortOut.rspValid (o : PortOut) : Bool := o.rsp.isSome

/-- rsp_status (R381, 60_exceptions.md R331), while rsp_valid is 1. -/
def PortOut.rspStatus (o : PortOut) : Option (BitVec 2) := o.rsp.map fun r => r.status.code

/-- rsp_data (R381), while rsp_valid is 1. -/
def PortOut.rspData (o : PortOut) : Option RspData := o.rsp.map fun r => r.data

/-- What the block is doing between two clock edges (R381). -/
inductive Phase where
  /-- no command in the block -/
  | idle
  /-- a command is executing; its response is offered after `left` more edges -/
  | executing (w : CmdWord) (left : Nat)
  /-- a response is offered and not yet taken -/
  | responding (r : Response)
deriving DecidableEq, Repr

/-- The block with its port state. -/
structure Clocked where
  st    : State
  phase : Phase
deriving DecidableEq, Repr

/-- cmd_ready is 1 only when the block is idle: not in reset, not HALTED, not executing, no untaken response (R381).
That it is 1 in every such cycle, the one right after a response is taken included, is the model's choice: R370 says so
of the first cycle after reset alone (DESIGN CHOICE, notes/assumptions/6.md). In reset no response is produced (R370). -/
def Clocked.outputs (c : Clocked) (i : PortIn) : PortOut where
  cmdReady := i.rstN && !c.st.halted && decide (c.phase = .idle)
  rsp :=
    match c.phase with
    | .responding r => if i.rstN then some r else none
    | .idle => none
    | .executing _ _ => none

/-- The command's writes take effect together and its response is offered (R382); a command that halts the block
gets no response (60_exceptions.md R336). -/
def completeCommand (w : CmdWord) (st : State) : Clocked :=
  match runCommand w st with
  | .next t =>
    if t.halted then ⟨t, .idle⟩
    else
      match t.responses.getLast? with
      | some r => ⟨t, .responding r⟩
      | none => ⟨t, .idle⟩
  | .fault _ => ⟨st, .idle⟩
  | .refused _ => ⟨st, .idle⟩

/-- `left` edges remain before the response of w is offered; with one or none left it completes now. -/
def continueCommand (w : CmdWord) (st : State) (left : Nat) : Clocked :=
  if left ≤ 1 then completeCommand w st else ⟨st, .executing w (left - 1)⟩

/-- One rising edge of clk (R370, R372, R381, R382). A command accepted in cycle t is offered its response from
cycle t + L. An idle block accepts in the cycle of the offer, since its cmd_ready is then 1 (the choice of
`Clocked.outputs`). -/
def Clocked.tick (lat : Latency) (c : Clocked) (i : PortIn) : Clocked :=
  if i.rstN then
    match c.phase with
    | .idle =>
      if i.cmdValid && !c.st.halted then continueCommand i.cmdWord c.st (lat i.cmdWord c.st) else c
    | .executing w left => continueCommand w c.st left
    | .responding _ => if i.rspReady then ⟨c.st, .idle⟩ else c
  else ⟨c.st.assertReset, .idle⟩

/-- The block over a list of cycles. -/
def Clocked.ticks (lat : Latency) (c : Clocked) : List PortIn → Clocked
  | [] => c
  | i :: is => Clocked.ticks lat (c.tick lat i) is

end Sys2Proof.Machine
end

