-- ==== Sys2Proof/Safety.lean ====
section
/-!
DEFINITION. The terms in which claims are stated: the invariants of 10_state.md R53 to R55, the ends of a run
(70_reset_and_hazards.md R385), and what two states share.
-/
namespace Sys2Proof.Machine

/-- P_SINE_LUT is a legal table in one respect that R82 fixes whatever the rounding: entry 0 is the canonical
encoding of sin(0), which is 0. -/
def ParamsLegal (p : Params) : Prop := sineEntry p 0 = 0

/-- The phase j samples after p: p + j * FREQ mod 2^16 (43_smoother.md R282, R295). -/
def phaseFrom (s : State) (p : Word) (j : Nat) : Word := p + BitVec.ofNat 16 (j * s.freq.toNat)

/-- The phase of window sample j: PHI0 + j * FREQ mod 2^16 (43_smoother.md R295). -/
def windowPhase (s : State) (j : Nat) : Word := phaseFrom s s.phi0 j

/-- MSINE_FN(p, ATT) of a state's attenuation and tables. -/
def directAt (s : State) (p : Word) : Int := msineFn s.params p s.att

/-- What holds while STATUS.PP = 1 (10_state.md R39 to R43, R53; 43_smoother.md R289, R303). -/
structure State.Scheduled (s : State) : Prop where
  enabled : s.params.ppEnable = true
  moving : 1 ≤ s.freq.toNat
  sampl_min : 4 ≤ s.sampl.toNat
  sampl_max : s.sampl.toNat * s.freq.toNat ≤ 0x6000
  steps_min : 2 ≤ s.steps.toNat
  steps_root : s.steps.toNat = isqrtFn s s.sampl.toNat
  msize_eq : s.msize.toNat = s.sampl.toNat / s.steps.toNat
  asize_eq : s.asize.toNat = s.sampl.toNat % s.steps.toNat
  steps_le_msize : s.steps.toNat ≤ s.msize.toNat
  asize_lt_steps : s.asize.toNat < s.steps.toNat
  aidx_eq : s.aidx.toNat = (s.steps.toNat - 1) * s.msize.toNat
  ridx_eq : s.ridx.toNat = s.aidx.toNat + s.asize.toNat
  ridx_from_end : s.ridx.toNat = s.sampl.toNat - s.msize.toNat
  sidx_lt : s.sidx.toNat < s.sampl.toNat
  phi_eq : s.phi = windowPhase s s.sidx.toNat
  phi1_eq : s.phi1 = windowPhase s s.sampl.toNat
  one_quantum : (s.val1.toInt - s.val0.toInt).natAbs = 1
  settled : directAt s s.phi1 = s.val1.toInt
  plateaus : ∃ c, 1 ≤ c ∧ c ≤ s.sampl.toNat ∧ ∀ j < s.sampl.toNat,
    directAt s (windowPhase s j) = if j < c then s.val0.toInt else s.val1.toInt

/-- What holds while STATUS.PP = 0 (10_state.md R54). -/
structure State.Inactive (s : State) : Prop where
  phi1 : s.phi1 = 0
  val1 : s.val1 = 0
  steps : s.steps = 0
  sampl : s.sampl = 0
  msize : s.msize = 0
  asize : s.asize = 0
  ridx : s.ridx = 0
  aidx : s.aidx = 0

/-- The invariant of every command boundary: the tables are those of the instance (20_memory.md R82, R87), FREQ is
legal (10_state.md R32), VAL0 is the sample at PHI0 (R55), the sub-state is one of its two variants (R53, R54), and
only HALT mode halts, with FAULT set (R51, 60_exceptions.md R336). -/
structure State.Inv (s : State) : Prop where
  legal : ParamsLegal s.params
  rom : s.romIsqrt = Config.isqrtRom
  freq_max : s.freq.toNat ≤ Config.freqMax
  val0_eq : s.val0.toInt = directAt s s.phi0
  scheduled : s.pp = true → s.Scheduled
  inactive : s.pp = false → s.Inactive
  halted_mode : s.halted = true → s.params.precond = .halt ∧ s.fault = true

/-! ## The lookahead by relations (43_smoother.md R282 to R294) -/

/-- A scan from phase p with value v finds its transition at step n (R282, R283): the first change within both
inclusive bounds. -/
structure Transition (s : State) (p : Word) (v : Int) (n : Nat) : Prop where
  pos : 1 ≤ n
  step_bound : n ≤ Config.scanStepBound
  phase_bound : n * s.freq.toNat ≤ Config.scanPhaseBound
  change : directAt s (phaseFrom s p n) ≠ v
  first : ∀ j, 1 ≤ j → j < n → directAt s (phaseFrom s p j) = v

/-- The value of the plateau that begins n1 samples after PHI0. -/
def newValue (s : State) (n1 : Nat) : Int := directAt s (windowPhase s n1)

/-- The conditions under which a lookahead from (PHI0, VAL0) activates, with its two scan counts (R284, R286 to
R288, R293). -/
structure WindowAt (s : State) (n1 n2 : Nat) : Prop where
  enabled : s.params.ppEnable = true
  moving : s.freq ≠ 0
  first : Transition s s.phi0 s.val0.toInt n1
  one_quantum : (newValue s n1 - s.val0.toInt).natAbs ≤ Config.maxStepDelta
  second : Transition s (windowPhase s n1) (newValue s n1) n2
  tiles : Config.stepsMin ≤ isqrtFn s (n1 + n2 / 2)

/-- The schedule registers of an activation with these counts (R289, R290, R294, R297). -/
structure ScheduleOf (t : State) (n1 n2 : Nat) : Prop where
  pp : t.pp = true
  sampl : t.sampl.toNat = n1 + n2 / 2
  steps : t.steps.toNat = isqrtFn t t.sampl.toNat
  phi1 : t.phi1 = windowPhase t t.sampl.toNat
  val1 : t.val1.toInt = newValue t n1
  msize : t.msize.toNat = t.sampl.toNat / t.steps.toNat
  asize : t.asize.toNat = t.sampl.toNat % t.steps.toNat
  aidx : t.aidx.toNat = (t.steps.toNat - 1) * t.msize.toNat
  ridx : t.ridx.toNat = t.aidx.toNat + t.asize.toNat

/-- What a lookahead leaves, read from the state after it: it never writes FREQ, ATT, PHI0 or VAL0 (R286). -/
def LookaheadOutcome (t : State) : Prop :=
  t.sidx = 0 ∧
    ((∃ n1 n2, WindowAt t n1 n2 ∧ ScheduleOf t n1 n2) ∨
      ((∀ n1 n2, ¬ WindowAt t n1 n2) ∧ t.pp = false ∧ t.Inactive))

/-! ## Runs and frames -/

/-- A run that has ended normally: every command of the list has completed (R385). -/
def State.EndedNormally (s : State) : Prop := s.halted = false ∧ s.pos = s.program.length

/-- The two states agree in every register of 10_state.md R31. -/
def SameRegs (s t : State) : Prop := ∀ r, readReg t r = readReg s r

/-- The two states agree in every register but those of the list. -/
def SameRegsBut (rs : List Reg) (s t : State) : Prop := ∀ r, r ∉ rs → readReg t r = readReg s r

/-- The registers of the postprocessing sub-state and STATUS, which REBUILD and RETIRE may write (10_state.md R48). -/
def smootherRegs : List Reg :=
  [.status, .phi0, .val0, .phi1, .val1, .steps, .sampl, .msize, .asize, .sidx, .ridx, .aidx]

/-- What no command writes: the parameters, both tables (20_memory.md R87; 10_state.md R47), the host's list. -/
def SameFixed (s t : State) : Prop :=
  t.params = s.params ∧ t.romIsqrt = s.romIsqrt ∧ t.program = s.program

/-- The command was answered: one response more, of this status and data, and the index one further (R49, R122). -/
def Answered (st : Status) (data : RspData) (s t : State) : Prop :=
  t.responses = s.responses ++ [⟨st, data⟩] ∧ t.pos = s.pos + 1 ∧ t.halted = s.halted

/-- The command was answered OK with this data and wrote nothing. -/
def ReadOnly (data : RspData) (s t : State) : Prop :=
  SameRegs s t ∧ SameFixed s t ∧ Answered .ok data s t

/-- The command failed with this status (60_exceptions.md R334 to R336): only STATUS.FAULT is written; in ERROR mode
it is answered with data 0; in HALT mode it gets no response, the block halts, and the index stays
(notes/assumptions/5.md). -/
def Failed (st : Status) (s t : State) : Prop :=
  SameRegsBut [.status] s t ∧ t.pp = s.pp ∧ t.fault = true ∧ SameFixed s t ∧
    ((s.params.precond = .error ∧ Answered st 0 s t) ∨
      (s.params.precond = .halt ∧ t.halted = true ∧ t.responses = s.responses ∧ t.pos = s.pos))

/-- The sub-state of a REBUILD: the window starts at the current phase (43_smoother.md R281), then a lookahead. -/
def Rebuilt (t : State) : Prop :=
  t.phi0 = t.phi ∧ t.val0 = bits16 (directAt t t.phi) ∧ LookaheadOutcome t

/-- The command's source container is canonical for its source format (00_scope.md R17, 40_fixedpoint.md R161). -/
def FxCanonical (d : FxDesc) (a : BitVec 32) : Prop :=
  inFormat d.signed (fxSourceWidth d) (containerCode d.signed d.cs.bits a.toNat) = true

/-- The source code of an FX command (R161). -/
def fxCode (d : FxDesc) (a : BitVec 32) : Int := containerCode d.signed d.cs.bits a.toNat

/-- The data word is a container of width `cd` holding the code c canonically for a format of that signedness and
width (00_scope.md R17, 40_fixedpoint.md R162), zero-extended to 32 bits. -/
def HoldsCode (signed : Bool) (width : Nat) (cd : CWidth) (data : RspData) (c : Int) : Prop :=
  data.toNat < 2 ^ cd.bits ∧ containerCode signed cd.bits data.toNat = c ∧ inFormat signed width c = true

/-- Instructions executed in order; none where one of them stops. -/
def execAll : List Instr → State → Option State
  | [], s => some s
  | i :: is, s =>
    match exec i s with
    | .next t => execAll is t
    | .fault _ => none
    | .refused _ => none

end Sys2Proof.Machine
end

