-- ==== Sys2Proof/Certificates/Slice0/Obligations.lean ====
section
/-!
DEFINITION. The statements for the provers. OBLIGATIONS.json gives each its title, its basis and the rules it cites.
-/
open Sys2Proof Sys2Proof.Machine

/-! ## Encoding (30_encoding.md) -/

/-- No bit of an encoding is dropped: the word of every instruction decodes to it. -/
def Obligations.DecodeUndoesEncode : Prop := ∀ i : Instr, decode (encode i) = .ok i

/-- Every word that decodes is the encoding of what it decodes to: no two words name one instruction. -/
def Obligations.EncodeUndoesDecode : Prop :=
  ∀ (w : CmdWord) (i : Instr), decode w = .ok i → encode i = w

/-- R121: a word matches exactly one row and decodes to that row's command, or matches none and raises EILLEGAL. What
the failure is, `Failed`, is R334 to R336; that the host's index stays when it halts the block is the model's choice,
notes/assumptions/5.md (DEDUCED). -/
def Obligations.DecodingMatchesTheTable : Prop :=
  ∀ w : CmdWord,
    (∃ i, decode w = .ok i ∧
        (opcodeTable.filter fun r => r.matchesWord w).map (fun r => r.mnemonic) = [i.mnemonic]) ∨
      ((∃ e, decode w = .error e) ∧ (opcodeTable.filter fun r => r.matchesWord w) = [] ∧
        ∀ s : State, s.halted = false → ∃ t, runCommand w s = .next t ∧ Failed .eillegal s t)

/-- R118, R120: a reserved opcode, or a reserved bit of the opcode's format, raises EILLEGAL. What the failure is,
`Failed`, is R334 to R336; that the host's index stays when it halts the block is the model's choice,
notes/assumptions/5.md (DEDUCED). -/
def Obligations.ReservedWordsRaiseIllegal : Prop :=
  ∀ (w : CmdWord) (s : State), s.halted = false →
    (field w 60 4 = 0x0 ∨ field w 60 4 = 0xF ∨
      ∃ r ∈ opcodeTable, field r.value 60 4 = field w 60 4 ∧ w &&& r.mask ≠ r.value) →
    ∃ t, runCommand w s = .next t ∧ Failed .eillegal s t

/-- The words of R127 decode to the commands they are written for. -/
def Obligations.ExampleWordsDecode : Prop :=
  decode 0x2000000000000004 = .ok (.setf 4) ∧
  decode 0x6000000000000000 = .ok .step ∧
  decode 0x7000000100000000 = .ok (.rdreg .phi) ∧
  decode 0x9000800000004000 = .ok (.msine 0x4000 0x8000) ∧
  decode 0xB82AFD00FFE00000 = .ok (.fxshr ⟨true, 0, 21, 15, .c32, .c16⟩ 0xFFE00000) ∧
  decode 0xE000000000003FFF = .ok (.isqrt 0x3FFF)

/-! ## The assembler (30_encoding.md, section 5) -/

/-- R124: a number that fits its field is taken as it is, a register's number 0 to 15 and a conversion's 32-bit
immediate among them; one that does not fit is an assembly error. -/
def Obligations.AssemblerNeverTruncates : Prop :=
  ∀ (a b : String) (n k : Nat), numberOf a.toList = some n → numberOf b.toList = some k →
    (n < 0x10000 →
      assembleTokens [.word "SETF", .word a] = some [.setf (BitVec.ofNat 16 n)] ∧
      assembleTokens [.word "SETP", .word a] = some [.setp (BitVec.ofNat 16 n)] ∧
      assembleTokens [.word "SETA", .word a] = some [.seta (BitVec.ofNat 16 n)] ∧
      assembleTokens [.word "SINE", .word a] = some [.sine (BitVec.ofNat 16 n)] ∧
      assembleTokens [.word "ISQRT", .word a] = some [.isqrt (BitVec.ofNat 16 n)] ∧
      (k < 0x10000 → assembleTokens [.word "MSINE", .word a, .comma, .word b] =
        some [.msine (BitVec.ofNat 16 n) (BitVec.ofNat 16 k)])) ∧
    (0x10000 ≤ n →
      (∀ m, m ≠ "RDREG" → assembleTokens [.word m, .word a] = none) ∧
      ∀ m, assembleTokens [.word m, .word a, .comma, .word b] = none ∧
        assembleTokens [.word m, .word b, .comma, .word a] = none) ∧
    (n < 16 → assembleTokens [.word "RDREG", .word a] = some [.rdreg (Reg.ofIndex (BitVec.ofNat 4 n))]) ∧
    (16 ≤ n → assembleTokens [.word "RDREG", .word a] = none) ∧
    (n < 0x100000000 → ∀ m src dst f g, formatOf src = some f → formatOf dst = some g →
      assembleTokens [.word m, .word src, .arrow, .word dst, .comma, .word a] =
        (conversionOf m f g (BitVec.ofNat 32 n)).map fun i => [i]) ∧
    (0x100000000 ≤ n → ∀ m src dst,
      assembleTokens [.word m, .word src, .arrow, .word dst, .comma, .word a] = none)

/-- R125: which pairs of formats each conversion takes, and the descriptor they give. -/
def Obligations.AssembledFormatsAgree : Prop :=
  ∀ (src dst : FormatOperand) (a : BitVec 32) (i : Instr),
    (∀ mk, (mk = Instr.fxext ∧ conversionOf "FXEXT" src dst a = some i ∨
        mk = Instr.fxshr ∧ conversionOf "FXSHR" src dst a = some i) →
      dst.signed = src.signed ∧ dst.m = src.m ∧ src.m < 32 ∧ src.n < 32 ∧ dst.n < 32 ∧
        i = mk ⟨src.signed, BitVec.ofNat 5 src.m, BitVec.ofNat 5 src.n, BitVec.ofNat 5 dst.n, src.c, dst.c⟩ a) ∧
    (conversionOf "FXU2S" src dst a = some i ↔
      dst.signed = !src.signed ∧ dst.m = src.m ∧ dst.n + 1 = src.n ∧ src.m < 32 ∧ src.n < 32 ∧
        i = .fxu2s ⟨src.signed, BitVec.ofNat 5 src.m, BitVec.ofNat 5 src.n, 0, src.c, dst.c⟩ a) ∧
    (conversionOf "FXS2U" src dst a = some i ↔
      dst.signed = !src.signed ∧ dst.m = src.m ∧ dst.n = src.n + 1 ∧ src.m < 32 ∧ src.n < 32 ∧
        i = .fxs2u ⟨src.signed, BitVec.ofNat 5 src.m, BitVec.ofNat 5 src.n, 0, src.c, dst.c⟩ a) ∧
    (dst.signed = src.signed → dst.m = src.m → src.m < 32 → src.n < 32 → dst.n < 32 →
      (conversionOf "FXEXT" src dst a).isSome = true ∧ (conversionOf "FXSHR" src dst a).isSome = true)

/-- R126: the pseudo-instructions are their expansions. -/
def Obligations.PseudoInstructionsExpand : Prop :=
  assembleTokens [.word "PAUSE"] = assembleTokens [.word "SETF", .word "0"] ∧
  assembleTokens [.word "RDPHI"] = assembleTokens [.word "RDREG", .word "PHI"] ∧
  assembleTokens [.word "RDSTATUS"] = assembleTokens [.word "RDREG", .word "STATUS"] ∧
  assembleTokens [.word "SAMPLE"] = some [.out, .step] ∧
  ∀ a, (immediate 16 a).isSome = true →
    assembleTokens [.word "U16TOS15", .word a] =
      assembleTokens [.word "FXU2S", .word "UQ0.16/C16", .arrow, .word "SQ0.15/C16", .comma, .word a]

/-! ## The step and the response -/

/-- A step runs the command word at the host's index, whole: exec of the instruction it decodes to (R49, R383).
With no word there, a block that is not halted waits (the model's choice, notes/assumptions/3.md). What a rejected
word's failure is, `Failed`, is R334 to R336; that the index stays when it halts the block is the model's choice,
notes/assumptions/5.md (DEDUCED). -/
def Obligations.StepRunsTheDecodedCommand : Prop :=
  ∀ s : State, s.halted = false →
    (∀ w i, s.program[s.pos]? = some w → decode w = .ok i → step s = exec i s) ∧
      (∀ w e, s.program[s.pos]? = some w → decode w = .error e →
        ∃ t, step s = .next t ∧ Failed .eillegal s t) ∧
      (s.program[s.pos]? = none → step s = .next s)

/-- R336: while HALTED = 1 the block accepts no command, whatever is offered, at the step and at the ports. -/
def Obligations.HaltedBlockAcceptsNothing : Prop :=
  ∀ s : State, s.halted = true →
    step s = .fault .halted ∧ (∀ w, runCommand w s = .fault .halted) ∧
      ∀ (lat : Latency) (i : PortIn), i.rstN = true →
        (Clocked.outputs ⟨s, .idle⟩ i).cmdReady = false ∧
          (Clocked.outputs ⟨s, .idle⟩ i).rsp = none ∧ Clocked.tick lat ⟨s, .idle⟩ i = ⟨s, .idle⟩

/-- Every instruction, and every word a block that is not halted accepts, ends in a next state: with exactly one
response and the index one further, or, in HALT mode only, halted with neither (R49, R122, R336, R378). That the index
stays when a command halts the block is the model's choice, notes/assumptions/5.md. -/
def Obligations.EveryCommandEndsWithOneResponse : Prop :=
  (∀ (i : Instr) (s : State), ∃ t, exec i s = .next t ∧
    ((∃ st data, Answered st data s t ∧ (st ≠ .ok → data = 0)) ∨
      (s.params.precond = .halt ∧ t.halted = true ∧ t.responses = s.responses ∧ t.pos = s.pos))) ∧
  (∀ (w : CmdWord) (s : State), s.halted = false → ∃ t, runCommand w s = .next t ∧
    ((∃ st data, Answered st data s t ∧ (st ≠ .ok → data = 0)) ∨
      (s.params.precond = .halt ∧ t.halted = true ∧ t.responses = s.responses ∧ t.pos = s.pos))) ∧
  Status.code .ok = 0b00 ∧ Status.code .einval = 0b01 ∧ Status.code .eillegal = 0b10

/-! ## Errors (60_exceptions.md) -/

/-- R332, R333 for a decoded command: exactly which instructions fail, and with which status. What a failure is,
`Failed`, is R334 to R336; that the index stays when it halts the block is the model's choice,
notes/assumptions/5.md (DEDUCED). -/
def Obligations.ErrorsAreExactlyThese : Prop :=
  ∀ (i : Instr) (s t : State), exec i s = .next t →
    (i.wellFormed = false → Failed .eillegal s t) ∧
      (((∃ imm, i = .setf imm ∧ 0x4000 < imm.toNat) ∨
          (i.wellFormed = true ∧ ∃ d a, (i = .fxext d a ∨ i = .fxshr d a ∨ i = .fxu2s d a ∨ i = .fxs2u d a) ∧
            ¬ FxCanonical d a) ∨
          (i.wellFormed = true ∧ ∃ d a, i = .fxs2u d a ∧ FxCanonical d a ∧ fxCode d a < 0)) →
        Failed .einval s t) ∧
      ((i.wellFormed = true ∧ (∀ imm, i = .setf imm → imm.toNat ≤ 0x4000) ∧
          (∀ d a, (i = .fxext d a ∨ i = .fxshr d a ∨ i = .fxu2s d a ∨ i = .fxs2u d a) → FxCanonical d a) ∧
          (∀ d a, i = .fxs2u d a → 0 ≤ fxCode d a)) →
        t.fault = s.fault ∧ ∃ data, Answered .ok data s t)

/-- R335: STATUS.FAULT is set by every command that fails and never cleared by one; reset clears it. That a command
failed is read from its end alone: a response whose status is not OK, or HALTED becoming 1. -/
def Obligations.FaultIsSticky : Prop :=
  (∀ (w : CmdWord) (s t : State), runCommand w s = .next t →
    (t.fault = true ↔
      s.fault = true ∨ (∃ r, t.responses = s.responses ++ [r] ∧ r.status ≠ .ok) ∨
        (s.halted = false ∧ t.halted = true))) ∧
  ∀ s : State, s.assertReset.fault = false

/-- R336: in HALT mode a command is answered OK or halts the block, which then accepts nothing: no error status is
ever answered; the halting command writes FAULT and HALTED and nothing else; in ERROR mode HALTED stays 0. That the
index stays is the model's choice, notes/assumptions/5.md (DEDUCED). -/
def Obligations.HaltModeAnswersNoError : Prop :=
  ∀ (w : CmdWord) (s t : State), runCommand w s = .next t →
    (s.params.precond = .halt →
      (t.halted = false ∧ t.fault = s.fault ∧ ∃ data, Answered .ok data s t) ∨
        (t.halted = true ∧ t.fault = true ∧ t.responses = s.responses ∧ t.pos = s.pos ∧
          SameRegsBut [.status] s t ∧ t.pp = s.pp ∧ SameFixed s t ∧ ∀ w', runCommand w' t = .fault .halted)) ∧
    (s.params.precond = .error → t.halted = false)

/-! ## Reset (70_reset_and_hazards.md) -/

/-- R371: what reset leaves, in every state and for every instance: zero everywhere but in CFG, which with the tables
is not written; on a table whose entry 0 is sin(0) (R82), VAL0 is the sample at PHI0; and INIT gives the same registers
once FAULT is 0. -/
def Obligations.ResetZeroesEveryRegister : Prop :=
  (∀ s : State, (∀ r, r ≠ .cfg → readReg s.assertReset r = 0) ∧
    readReg s.assertReset .cfg = readReg s .cfg ∧ s.assertReset.halted = false ∧
    s.assertReset.params = s.params ∧ s.assertReset.romIsqrt = s.romIsqrt ∧ s.assertReset.Inactive ∧
    (ParamsLegal s.params →
      s.assertReset.val0.toInt = directAt s.assertReset s.assertReset.phi0) ∧
    (s.fault = false → ∃ t, exec .init s = .next t ∧ SameRegs t s.assertReset)) ∧
  (∀ p : Params, (State.powerOn p).assertReset = State.powerOn p)

/-! ## Registers (10_state.md) -/

/-- R246, R123: RDREG answers the register, zero-extended, and writes nothing. -/
def Obligations.RdregReadsTheRegister : Prop :=
  ∀ (r : Reg) (s : State), ∃ t data, exec (.rdreg r) s = .next t ∧ ReadOnly data s t ∧
    data.toNat = (readReg s r).toNat

/-- R31, R35, R47: the sixteen registers are distinct homes: each index reads its own register, and the bits of
STATUS and CFG are the flags and the parameters. -/
def Obligations.RegisterMap : Prop :=
  ∀ s : State,
    (List.range 16).map (fun k => readReg s (Reg.ofIndex (BitVec.ofNat 4 k))) =
      [s.freq, s.phi, s.att, readReg s .status, s.phi0, s.val0, s.phi1, s.val1, s.steps, s.sampl,
        s.msize, s.asize, s.sidx, s.ridx, s.aidx, readReg s .cfg] ∧
    (readReg s .status).getLsbD 0 = s.pp ∧ (readReg s .status).getLsbD 1 = s.fault ∧
    (∀ k, 2 ≤ k → (readReg s .status).getLsbD k = false) ∧
    (readReg s .cfg).getLsbD 0 = s.params.ppEnable ∧ (readReg s .cfg).getLsbD 1 = s.params.rescan ∧
    ((readReg s .cfg).getLsbD 2 = true ↔ s.params.isqrtOver = .exact) ∧
    ((readReg s .cfg).getLsbD 3 = true ↔ s.params.precond = .halt) ∧
    ∀ k, 4 ≤ k → (readReg s .cfg).getLsbD k = false

/-- R31, column "access by commands", and R280: which command can have changed a register or the schedule; and R51,
R336: only a failing command changes HALTED. What a failure is, `Failed`, is R334 to R336; that the index stays when it
halts the block is the model's choice, notes/assumptions/5.md (DEDUCED). -/
def Obligations.OnlyTheirCommandsWriteRegisters : Prop :=
  ∀ (i : Instr) (s t : State), exec i s = .next t →
    (t.freq ≠ s.freq → i = .init ∨ ∃ v, i = .setf v) ∧
    (t.phi ≠ s.phi → i = .init ∨ i = .step ∨ ∃ v, i = .setp v) ∧
    (t.att ≠ s.att → i = .init ∨ ∃ v, i = .seta v) ∧
    ((∃ r ∈ smootherRegs, r ≠ .status ∧ readReg t r ≠ readReg s r) ∨ t.pp ≠ s.pp →
      i = .init ∨ i = .step ∨ ∃ v, i = .setf v ∨ i = .setp v ∨ i = .seta v) ∧
    (t.halted ≠ s.halted → Failed .einval s t ∨ Failed .eillegal s t)

/-- R47, R87: no step changes CFG, a parameter, or an entry of a table. -/
def Obligations.NoStepWritesTablesOrParameters : Prop :=
  ∀ s t : State, step s = .next t →
    t.params = s.params ∧ t.romIsqrt = s.romIsqrt ∧ readReg t .cfg = readReg s .cfg ∧
      (∀ k, sineEntry t.params k = sineEntry s.params k) ∧ t.program = s.program

/-! ## The oscillator (42_oscillator.md) -/

/-- R240: INIT zeroes every register but STATUS.FAULT and CFG. -/
def Obligations.InitZeroesAllButFault : Prop :=
  ∀ s : State, ∃ t, exec .init s = .next t ∧
    (∀ r, r ≠ .status → r ≠ .cfg → readReg t r = 0) ∧ t.pp = false ∧ t.fault = s.fault ∧
      SameFixed s t ∧ Answered .ok 0 s t

/-- R241, R281: SETF with a legal increment writes FREQ and rebuilds; nothing else changes. -/
def Obligations.SetfWritesAndRebuilds : Prop :=
  ∀ (s : State) (imm : Word), imm.toNat ≤ 0x4000 →
    ∃ t, exec (.setf imm) s = .next t ∧ t.freq = imm ∧ Rebuilt t ∧
      SameRegsBut (.freq :: smootherRegs) s t ∧ t.fault = s.fault ∧ SameFixed s t ∧ Answered .ok 0 s t

/-- R241, R334: SETF above 0x4000 raises EINVAL and writes no register. What the failure is, `Failed`, is R334 to R336;
that the index stays when it halts the block is the model's choice, notes/assumptions/5.md (DEDUCED). -/
def Obligations.SetfAboveTheLimitFails : Prop :=
  ∀ (s : State) (imm : Word), 0x4000 < imm.toNat →
    ∃ t, exec (.setf imm) s = .next t ∧ Failed .einval s t

/-- R242, R281: SETP writes PHI and rebuilds at every phase; nothing else changes. -/
def Obligations.SetpWritesAndRebuilds : Prop :=
  ∀ (s : State) (imm : Word),
    ∃ t, exec (.setp imm) s = .next t ∧ t.phi = imm ∧ Rebuilt t ∧
      SameRegsBut (.phi :: smootherRegs) s t ∧ t.fault = s.fault ∧ SameFixed s t ∧ Answered .ok 0 s t

/-- R243, R281: SETA writes ATT and rebuilds at every attenuation; nothing else changes. -/
def Obligations.SetaWritesAndRebuilds : Prop :=
  ∀ (s : State) (imm : Word),
    ∃ t, exec (.seta imm) s = .next t ∧ t.att = imm ∧ Rebuilt t ∧
      SameRegsBut (.att :: smootherRegs) s t ∧ t.fault = s.fault ∧ SameFixed s t ∧ Answered .ok 0 s t

/-- R249, R90: a setter, and every other command but STEP, issued twice leaves the registers as once; the registers
after a SETF that is in range depend on the operand, PHI, ATT and the instance alone (STATUS.FAULT apart). -/
def Obligations.CommandsAreIdempotent : Prop :=
  (∀ (i : Instr) (s t u : State), i ≠ .step →
    exec i s = .next t → exec i t = .next u → SameRegs t u ∧ t.halted = u.halted) ∧
  (∀ (f : Word) (s s' t t' : State), f.toNat ≤ 0x4000 → s'.phi = s.phi → s'.att = s.att →
    s'.params = s.params → s'.romIsqrt = s.romIsqrt → exec (.setf f) s = .next t →
    exec (.setf f) s' = .next t' → SameRegsBut [.status] t t' ∧ t'.pp = t.pp)

/-- R244: STEP with FREQ = 0 changes no register, SIDX included. -/
def Obligations.PausedStepChangesNothing : Prop :=
  ∀ s : State, s.freq = 0 → ∃ t, exec .step s = .next t ∧ ReadOnly 0 s t

/-- R244: a STEP that neither retires nor rescans advances PHI by FREQ and SIDX by 1, both mod 2^16, and no more. -/
def Obligations.StepAdvancesPhaseAndIndex : Prop :=
  ∀ s : State, s.freq ≠ 0 → (s.pp = true → s.sidx + 1 ≠ s.sampl) →
    (s.pp = false → s.params.rescan = false) →
    ∃ t, exec .step s = .next t ∧ t.phi.toNat = (s.phi.toNat + s.freq.toNat) % 0x10000 ∧
      t.sidx.toNat = (s.sidx.toNat + 1) % 0x10000 ∧ SameRegsBut [.phi, .sidx] s t ∧
      SameFixed s t ∧ Answered .ok 0 s t

/-- R299, R300: the STEP that brings SIDX to SAMPL retires the window and looks ahead from its right boundary. -/
def Obligations.StepRetiresTheWindow : Prop :=
  ∀ s : State, s.freq ≠ 0 → s.pp = true → s.sidx + 1 = s.sampl →
    ∃ t, exec .step s = .next t ∧ t.phi = s.phi + s.freq ∧ t.phi0 = s.phi1 ∧ t.val0 = s.val1 ∧
      LookaheadOutcome t ∧ SameRegsBut (.phi :: smootherRegs) s t ∧ t.fault = s.fault ∧
      SameFixed s t ∧ Answered .ok 0 s t

/-- R301: with P_RESCAN, a STEP of an inactive smoother rebuilds at the advanced phase. -/
def Obligations.StepRescansWhileInactive : Prop :=
  ∀ s : State, s.freq ≠ 0 → s.pp = false → s.params.rescan = true →
    ∃ t, exec .step s = .next t ∧ t.phi = s.phi + s.freq ∧ Rebuilt t ∧
      SameRegsBut (.phi :: smootherRegs) s t ∧ t.fault = s.fault ∧ SameFixed s t ∧ Answered .ok 0 s t

/-- R245: OUT answers the direct sample while no schedule is active, and VAL1 or VAL0 as P_TILE says while one is;
it writes nothing. -/
def Obligations.OutAnswersTheSample : Prop :=
  ∀ s : State, ∃ t v, exec .out s = .next t ∧ ReadOnly (sampleData v) s t ∧
    (s.pp = false → v = directAt s s.phi) ∧
    (s.pp = true → tile s.params.tile (tileArgs s) = true → v = s.val1.toInt) ∧
    (s.pp = true → tile s.params.tile (tileArgs s) = false → v = s.val0.toInt) ∧
    (sampleData v).toNat < 0x10000 ∧ sintOf 16 (sampleData v).toNat = v

/-- R247: 65536 / gcd(65536, FREQ) STEPs return PHI to its start, and no smaller positive number does. -/
def Obligations.PhasePeriod : Prop :=
  ∀ s : State,
    (∃ t, execAll (List.replicate (0x10000 / Nat.gcd 0x10000 s.freq.toNat) .step) s = some t ∧
      t.phi = s.phi) ∧
    ∀ n, 0 < n → n < 0x10000 / Nat.gcd 0x10000 s.freq.toNat →
      ∃ t, execAll (List.replicate n .step) s = some t ∧ t.phi ≠ s.phi

/-- R248: while FREQ = 0 no schedule is active, any number of STEPs changes nothing, and OUT gives the same sample. -/
def Obligations.PausedOutputIsConstant : Prop :=
  ∀ s : State, s.Inv → s.freq = 0 → s.pp = false ∧
    ∀ n, ∃ t u, execAll (List.replicate n .step) s = some t ∧ SameRegs s t ∧
      exec .out t = .next u ∧ Answered .ok (sampleData (directAt s s.phi)) t u

/-! ## The trigonometric engine (41_trig.md) -/

/-- R209, R123: SINE answers the magnitude in bits 16:0 and the sign in bit 17, and writes nothing. -/
def Obligations.SineAnswersSignAndMagnitude : Prop :=
  ∀ (phi : Word) (s : State), ∃ t data, exec (.sine phi) s = .next t ∧ ReadOnly data s t ∧
    data.toNat % 0x20000 = (sineFn s.params phi).mag ∧
    data.toNat / 0x20000 = (sineFn s.params phi).neg.toNat

/-- R210, R123: MSINE answers the sample as a 16-bit pattern, and writes nothing. -/
def Obligations.MsineAnswersTheSample : Prop :=
  ∀ (phi att : Word) (s : State), ∃ t data, exec (.msine phi att) s = .next t ∧ ReadOnly data s t ∧
    data.toNat < 0x10000 ∧ sintOf 16 data.toNat = msineFn s.params phi att

/-- R200: the four quadrants' folds, each below a quarter turn away from the singular phases. -/
def Obligations.FoldingStaysInTheQuadrant : Prop :=
  ∀ phi : Word, phi ≠ 0x4000 → phi ≠ 0xC000 →
    (fold phi).mag ≤ 0x3FFF ∧ ((fold phi).neg = true ↔ 0x8000 ≤ phi.toNat) ∧
    (phi.toNat < 0x4000 → (fold phi).mag = phi.toNat) ∧
    (0x4000 < phi.toNat → phi.toNat < 0x8000 → (fold phi).mag + phi.toNat = 0x8000) ∧
    (0x8000 ≤ phi.toNat → phi.toNat < 0xC000 → (fold phi).mag + 0x8000 = phi.toNat) ∧
    (0xC000 < phi.toNat → (fold phi).mag + phi.toNat = 0x10000)

/-- R202, R204, R85: at a knot the sine is the table entry; between knots it is the sum of the two floored products,
with P_LUT_TOP as the knot after entry 255. R205, R201: every phase is folded first but for the two singular ones. -/
def Obligations.SineAtKnotsIsTheTableEntry : Prop :=
  (∀ (p : Params) (i : Fin 256),
    sineFn p (BitVec.ofNat 16 (64 * i.val)) = ⟨(p.sineLut.get i).toNat, false⟩ ∧
      ∀ r hi : Nat, 0 < r → r < 64 →
        (∀ h : i.val + 1 < 256, hi = (p.sineLut.get ⟨i.val + 1, h⟩).toNat) →
        (i.val = 255 → hi = p.lutTop.val) →
        sineFn p (BitVec.ofNat 16 (64 * i.val + r)) =
          ⟨(p.sineLut.get i).toNat * (0x10000 - 0x400 * r) / 0x10000 + hi * (0x400 * r) / 0x10000, false⟩) ∧
  (∀ (p : Params) (phi : Word), phi ≠ 0x4000 → phi ≠ 0xC000 →
    (sineFn p phi).neg = (fold phi).neg ∧
      sineFn p (BitVec.ofNat 16 (fold phi).mag) = ⟨(sineFn p phi).mag, false⟩) ∧
  ∀ p : Params, sineFn p 0x4000 = ⟨0x10000, false⟩ ∧ sineFn p 0xC000 = ⟨0x10000, true⟩

/-- R211, mirror: the sine is symmetric about a quarter turn; the modulated sine too, on a table whose entry 0 is
sin(0) (R82). -/
def Obligations.SineMirror : Prop :=
  ∀ (p : Params) (x : Word), x.toNat ≤ 0x4000 →
    (sineFn p (0x8000 - x)).mag = (sineFn p x).mag ∧
      (ParamsLegal p → ∀ att, msineFn p (0x8000 - x) att = msineFn p x att)

/-- R211, half-turn: the sine changes sign, exactly but for the one rail case. -/
def Obligations.SineHalfTurn : Prop :=
  ∀ (p : Params) (x : Word), x.toNat < 0x8000 →
    (sineFn p (x + 0x8000)).mag = (sineFn p x).mag ∧
      (sineFn p (x + 0x8000)).neg = !(sineFn p x).neg ∧
      ∀ att, (x ≠ 0x4000 ∨ att ≠ 0 → msineFn p (x + 0x8000) att = -msineFn p x att) ∧
        (x = 0x4000 → att = 0 → msineFn p (x + 0x8000) att = -0x8000 ∧ msineFn p x att = 0x7FFF)

/-- R212: the samples lie in [-0x8000, 0x7FFF], and -0x8000 occurs only at phase 0xC000 with attenuation 0; the
interpolated sine is not monotone. -/
def Obligations.MsineCodomain : Prop :=
  (∀ (p : Params) (phi att : Word),
    -0x8000 ≤ msineFn p phi att ∧ msineFn p phi att ≤ 0x7FFF ∧
      (msineFn p phi att = -0x8000 ↔ phi = 0xC000 ∧ att = 0)) ∧
  interp Params.default 0x3B40 = 65091 ∧ interp Params.default 0x3B41 = 65090

/-- R206, R207: away from an exact 1.0, the sample is the scaled magnitude rounded half up, at most the positive
rail, with the sine's sign. -/
def Obligations.MsineRoundsTheScaledMagnitude : Prop :=
  ∀ (p : Params) (phi att : Word),
    let q := (sineFn p phi).mag * (0x10000 - att.toNat) / 0x10000
    q ≤ 0x10000 ∧ (q = 0x10000 ↔ (phi = 0x4000 ∨ phi = 0xC000) ∧ att = 0) ∧
      (q ≠ 0x10000 →
        msineFn p phi att =
          if (sineFn p phi).neg then -((min ((q + 1) / 2) 0x7FFF : Nat) : Int)
          else ((min ((q + 1) / 2) 0x7FFF : Nat) : Int))

/-! ## The converter (40_fixedpoint.md) -/

/-- R163, R162: FXEXT of a legal, canonical command answers the code shifted left, canonical in its container. -/
def Obligations.FxextShiftsLeft : Prop :=
  ∀ (d : FxDesc) (a : BitVec 32) (s : State), (Instr.fxext d a).wellFormed = true → FxCanonical d a →
    ∃ t data, exec (.fxext d a) s = .next t ∧ ReadOnly data s t ∧
      HoldsCode d.signed (fxDestWidth d) d.cd data (fxCode d a * 2 ^ (d.nd.toNat - d.ns.toNat))

/-- R164, R162: FXSHR of a legal, canonical command answers the code floor-divided, canonical in its container. -/
def Obligations.FxshrFloors : Prop :=
  ∀ (d : FxDesc) (a : BitVec 32) (s : State), (Instr.fxshr d a).wellFormed = true → FxCanonical d a →
    ∃ t data q, exec (.fxshr d a) s = .next t ∧ ReadOnly data s t ∧
      HoldsCode d.signed (fxDestWidth d) d.cd data q ∧
      q * 2 ^ (d.ns.toNat - d.nd.toNat) ≤ fxCode d a ∧
      fxCode d a < (q + 1) * 2 ^ (d.ns.toNat - d.nd.toNat)

/-- R165, R162: FXU2S of a legal, canonical command answers half the code, a non-negative signed code. -/
def Obligations.FxuToSHalves : Prop :=
  ∀ (d : FxDesc) (a : BitVec 32) (s : State), (Instr.fxu2s d a).wellFormed = true → FxCanonical d a →
    ∃ t data q, exec (.fxu2s d a) s = .next t ∧ ReadOnly data s t ∧
      HoldsCode true (fxSourceWidth d) d.cd data q ∧ 0 ≤ q ∧ (fxCode d a = 2 * q ∨ fxCode d a = 2 * q + 1)

/-- R166, R162: FXS2U of a legal, canonical command with a non-negative source answers twice the code. -/
def Obligations.FxsToUDoubles : Prop :=
  ∀ (d : FxDesc) (a : BitVec 32) (s : State), (Instr.fxs2u d a).wellFormed = true → FxCanonical d a →
    0 ≤ fxCode d a →
    ∃ t data, exec (.fxs2u d a) s = .next t ∧ ReadOnly data s t ∧
      HoldsCode false (fxSourceWidth d) d.cd data (2 * fxCode d a)

/-- R167, first law: shrinking what was extended gives the operand back, through the commands themselves. -/
def Obligations.ShrinkUndoesExtend : Prop :=
  ∀ (d : FxDesc) (a : BitVec 32) (s : State), (Instr.fxext d a).wellFormed = true → FxCanonical d a →
    ∃ t u data, exec (.fxext d a) s = .next t ∧ Answered .ok data s t ∧
      exec (.fxshr ⟨d.signed, d.m, d.nd, d.ns, d.cd, d.cs⟩ data) t = .next u ∧ Answered .ok a t u

/-- R167, second law: extending what was shrunk gives the code with its low bits cleared. -/
def Obligations.ExtendAfterShrinkClearsLowBits : Prop :=
  ∀ (d : FxDesc) (a : BitVec 32) (s : State), (Instr.fxshr d a).wellFormed = true → FxCanonical d a →
    ∃ t u data data', exec (.fxshr d a) s = .next t ∧ Answered .ok data s t ∧
      exec (.fxext ⟨d.signed, d.m, d.nd, d.ns, d.cd, d.cs⟩ data) t = .next u ∧ Answered .ok data' t u ∧
      HoldsCode d.signed (fxSourceWidth d) d.cs data'
        (fxCode d a - fxCode d a % 2 ^ (d.ns.toNat - d.nd.toNat))

/-- R167, third and fourth laws: sign insertion undoes sign removal; the other order clears bit 0. (With ns = 31 the
format after sign removal has 32 fractional bits, which no descriptor's 5-bit NS can name, so no FXU2S follows.) -/
def Obligations.SignRoundTrips : Prop :=
  (∀ (d : FxDesc) (a : BitVec 32) (s : State), (Instr.fxs2u d a).wellFormed = true → FxCanonical d a →
    0 ≤ fxCode d a → d.ns.toNat < 31 →
    ∃ t u data, exec (.fxs2u d a) s = .next t ∧ Answered .ok data s t ∧
      exec (.fxu2s ⟨false, d.m, d.ns + 1, 0, d.cd, d.cs⟩ data) t = .next u ∧ Answered .ok a t u) ∧
  (∀ (d : FxDesc) (a : BitVec 32) (s : State), (Instr.fxu2s d a).wellFormed = true → FxCanonical d a →
    ∃ t u data data', exec (.fxu2s d a) s = .next t ∧ Answered .ok data s t ∧
      exec (.fxs2u ⟨true, d.m, d.ns - 1, 0, d.cd, d.cs⟩ data) t = .next u ∧ Answered .ok data' t u ∧
      data'.toNat = a.toNat - a.toNat % 2)

/-! ## The smoother (43_smoother.md) -/

/-- R290 to R292, R302: ISQRT answers floor(sqrt(x)), but 127 at and above 0x4000 under SAT127; it writes nothing. -/
def Obligations.IsqrtAnswersTheRoot : Prop :=
  ∀ (x : Word) (s : State), s.romIsqrt = Config.isqrtRom →
    ∃ t data, exec (.isqrt x) s = .next t ∧ ReadOnly data s t ∧
      (x.toNat < 0x4000 ∨ s.params.isqrtOver = .exact →
        data.toNat * data.toNat ≤ x.toNat ∧ x.toNat < (data.toNat + 1) * (data.toNat + 1)) ∧
      (0x4000 ≤ x.toNat → s.params.isqrtOver = .sat127 → data.toNat = 127)

/-- R282, R283: SCAN finds exactly the first change within both inclusive bounds. -/
def Obligations.ScanFindsTheFirstChange : Prop :=
  ∀ (s : State) (p : Word) (v : Int),
    (∀ h, scan s p v = some h →
      Transition s p v h.cnt ∧ h.phase = phaseFrom s p h.cnt ∧ h.val = directAt s h.phase) ∧
    (scan s p v = none → ∀ n, ¬ Transition s p v n)

/-- R296: every P_TILE emits VAL0 at the window's first sample and VAL1 at its last. -/
def Obligations.TileEndsAreFixed : Prop :=
  ∀ (p : TileParam) (sampl steps msize asize : Nat), 2 ≤ steps → steps ≤ msize →
    msize = sampl / steps → asize = sampl % steps →
    tile p ⟨0, sampl, steps, msize, asize⟩ = false ∧
      tile p ⟨sampl - 1, sampl, steps, msize, asize⟩ = true

/-- R295, R296: group k of TILE_DEFAULT ends with k samples of VAL1, the additional step alternates from VAL0, and
the right-hand block is VAL1 throughout. -/
def Obligations.TileDefaultLayout : Prop :=
  ∀ (sampl steps msize asize : Nat), 2 ≤ steps → steps ≤ msize → msize = sampl / steps →
    asize = sampl % steps →
    (∀ k j, k + 1 < steps → j < msize →
      tile .default ⟨k * msize + j, sampl, steps, msize, asize⟩ = decide (msize ≤ j + k)) ∧
    (∀ j, j < asize →
      tile .default ⟨(steps - 1) * msize + j, sampl, steps, msize, asize⟩ = decide (j % 2 = 1)) ∧
    (∀ j, j < msize →
      tile .default ⟨(steps - 1) * msize + asize + j, sampl, steps, msize, asize⟩ = true)

/-- R371, R53 to R55: the state reset leaves meets the invariant, for every instance with a legal table. -/
def Obligations.ResetMeetsTheInvariant : Prop :=
  State.reset.Inv ∧ ∀ p, ParamsLegal p → (State.powerOn p).Inv

/-- R32, R51, R53, R54, R55: every step from a state that meets the invariant ends in one that meets it. -/
def Obligations.StepKeepsTheInvariant : Prop :=
  ∀ s t : State, s.Inv → step s = .next t → t.Inv

/-- R40 to R43: the ranges of the schedule registers while a schedule is active. -/
def Obligations.ScheduleRegistersStayInRange : Prop :=
  ∀ s : State, s.Inv → s.pp = true →
    4 ≤ s.sampl.toNat ∧ s.sampl.toNat ≤ 0x6000 ∧ 2 ≤ s.steps.toNat ∧
      (s.params.isqrtOver = .sat127 → s.steps.toNat ≤ 127) ∧
      (s.params.isqrtOver = .exact → s.steps.toNat ≤ 156) ∧
      s.steps.toNat ≤ s.msize.toNat ∧ s.asize.toNat < s.steps.toNat ∧ s.ridx.toNat < s.sampl.toNat ∧
      (s.val1.toInt = s.val0.toInt + 1 ∨ s.val1.toInt = s.val0.toInt - 1)

/-- R303: while a schedule is active, OUT gives VAL0 or VAL1, within one unit of the direct sample; it gives VAL0
at the window's first sample and VAL1 at its last; PHI1 lies on the plateau of VAL1. While none is, OUT is the direct
sample. -/
def Obligations.SmootherIsSound : Prop :=
  ∀ s : State, s.Inv → ∃ t v, exec .out s = .next t ∧ ReadOnly (sampleData v) s t ∧
    (s.pp = false → v = directAt s s.phi) ∧
    (s.pp = true →
      (v = s.val0.toInt ∨ v = s.val1.toInt) ∧ (v - directAt s s.phi).natAbs ≤ 1 ∧
        (s.sidx = 0 → v = s.val0.toInt) ∧ (s.sidx + 1 = s.sampl → v = s.val1.toInt) ∧
        directAt s s.phi1 = s.val1.toInt)

/-! ## Runs and ports (70_reset_and_hazards.md) -/

/-- R386: one sample of the host pattern, RDREG PHI, OUT, STEP, gives the phase, then the sample at it, then an OK,
before the phase advances. -/
def Obligations.HostPatternReadsPhaseAndSample : Prop :=
  ∀ s : State, ∃ t, execAll [.rdreg .phi, .out, .step] s = some t ∧
    t.responses = s.responses ++ [⟨.ok, s.phi.setWidth 32⟩, ⟨.ok, sampleData (outputSample s)⟩, ⟨.ok, 0⟩] ∧
    t.phi = s.phi + s.freq ∧ sintOf 16 (sampleData (outputSample s)).toNat = outputSample s

/-- R383: running the step over a host program from reset is folding the command function over its words. -/
def Obligations.RunIsTheFoldOfCommands : Prop :=
  ∀ (p : Params) (ws : List CmdWord),
    Host.Core.run Sys2Proof.core ws.length ((State.powerOn p).load ws) =
      runWords ws ((State.powerOn p).load ws)

/-- R382, R383: at every latency, a command accepted at the ports leaves after its L cycles exactly the state of the
command function, its response is offered then and not before. R382 lets the registers change in any of those cycles;
that none changes before the last is the model's choice, and so are that an idle block accepts in the cycle of the
offer and that a halting command takes its latency and leaves the block idle (notes/assumptions/6.md, DESIGN CHOICE
and DEDUCED). -/
def Obligations.ClockedBlockAgreesWithTheCommand : Prop :=
  ∀ (lat : Latency) (c : Clocked) (i : PortIn) (is : List PortIn), c.phase = .idle →
    c.st.halted = false → i.rstN = true → i.cmdValid = true → (∀ j ∈ is, j.rstN = true) →
    is.length + 1 = max 1 (lat i.cmdWord c.st) →
    ∃ t, runCommand i.cmdWord c.st = .next t ∧ (c.ticks lat (i :: is)).st = t ∧
      (t.halted = false →
        ∃ r, t.responses = c.st.responses ++ [r] ∧ (c.ticks lat (i :: is)).phase = .responding r) ∧
      (t.halted = true → (c.ticks lat (i :: is)).phase = .idle) ∧
      ∀ k < is.length, ∃ left, c.ticks lat (i :: is.take k) = ⟨c.st, .executing i.cmdWord left⟩

/-- R370, R372: reset abandons whatever the block was doing, and the block is ready in the next cycle. That cmd_ready
and rsp_valid are 0 in the very cycle in which rst_n is 0 is read from R370 by inference (notes/assumptions/6.md,
DEDUCED). -/
def Obligations.ResetAbandonsTheCommand : Prop :=
  ∀ (lat : Latency) (c : Clocked) (i j : PortIn), i.rstN = false → j.rstN = true →
    (c.outputs i).cmdReady = false ∧ (c.outputs i).rsp = none ∧
      (c.tick lat i).phase = .idle ∧ (∀ r, r ≠ .cfg → readReg (c.tick lat i).st r = 0) ∧
      (c.tick lat i).st.halted = false ∧ (c.tick lat i).st.params = c.st.params ∧
      ((c.tick lat i).outputs j).cmdReady = true ∧ ((c.tick lat i).outputs j).rsp = none

/-- R381, R382: a block that is not ready takes no command, whatever is offered; an untaken response stays; a taken one
leaves the block idle with its registers unchanged; an idle cycle in which no command is offered changes nothing. R381
says cmd_ready is 1 only when the block is idle: that it is 1 in every idle cycle, at once after a response is taken, is
the model's choice (notes/assumptions/6.md, DESIGN CHOICE). That rsp_valid is 0 in the very cycle in which rst_n is 0 is
read from R370 by inference (the same entry, DEDUCED). -/
def Obligations.OneCommandAtATime : Prop :=
  ∀ (lat : Latency) (c : Clocked) (i : PortIn),
    ((c.outputs i).rspValid = true ↔ i.rstN = true ∧ ∃ r, c.phase = .responding r) ∧
    (∀ r, c.phase = .responding r → i.rstN = true →
      (c.outputs i).rspStatus = some r.status.code ∧ (c.outputs i).rspData = some r.data) ∧
    ((c.outputs i).cmdReady = true ↔ i.rstN = true ∧ c.st.halted = false ∧ c.phase = .idle) ∧
    ((c.outputs i).cmdReady = false →
      ∀ v w, c.tick lat { i with cmdValid := v, cmdWord := w } = c.tick lat i) ∧
    (∀ r, c.phase = .responding r → i.rstN = true → i.rspReady = false →
      c.tick lat i = c ∧ (c.outputs i).rsp = some r) ∧
    (∀ r, c.phase = .responding r → i.rstN = true → i.rspReady = true →
      (c.outputs i).rsp = some r ∧ (c.tick lat i).st = c.st ∧ (c.tick lat i).phase = .idle ∧
        ∀ j : PortIn, j.rstN = true → ((c.tick lat i).outputs j).rspValid = false ∧
          (((c.tick lat i).outputs j).cmdReady = true ↔ c.st.halted = false)) ∧
    (c.phase = .idle → i.rstN = true → i.cmdValid = false → c.tick lat i = c)
end

