-- ==== Sys2Proof/Laws/Assembler.lean ====
section
/-!
SUPPORT. What the assembler makes of a number (30_encoding.md R124): the word's value decides, not its spelling.
-/
namespace Sys2Proof.Machine

/-- A word that writes the number n is an immediate of every width n fits, and of no other. -/
theorem immediate_of_number {width n : Nat} {a : String} (h : numberOf a.toList = some n) :
    immediate width a = if n < 2 ^ width then some (BitVec.ofNat width n) else none := by
  simp [immediate, fitted, h]

/-- A word that writes a number is no register's name: it names the register of that index, if there is one. -/
theorem registerOf_number {n : Nat} {a : String} (h : numberOf a.toList = some n) :
    registerOf a = (immediate 4 a).map Reg.ofIndex := by
  unfold registerOf
  split <;> first | rfl | (exfalso; revert h; decide +revert)

end Sys2Proof.Machine
end

