-- ==== Sys2Proof/Laws/Decode.lean ====
section
/-!
SUPPORT. Fields and concatenations as numbers (00_scope.md R13), so that encodings are compared by linear arithmetic.
-/
namespace Sys2Proof

/-- A concatenation as a number: the left part shifted, plus the right part. -/
theorem toNat_append_add {n m : Nat} (x : BitVec n) (y : BitVec m) :
    (x ++ y).toNat = x.toNat * 2 ^ m + y.toNat := by
  rw [BitVec.toNat_append, ← Nat.shiftLeft_add_eq_or_of_lt y.isLt, Nat.shiftLeft_eq]

/-- A field as a number. -/
theorem toNat_field (w : CmdWord) (lo len : Nat) :
    (field w lo len).toNat = w.toNat / 2 ^ lo % 2 ^ len := by
  rw [field, BitVec.extractLsb'_toNat, Nat.shiftRight_eq_div_pow]

theorem field_eq_iff (w : CmdWord) (lo len : Nat) (c : BitVec len) :
    field w lo len = c ↔ w.toNat / 2 ^ lo % 2 ^ len = c.toNat := by
  rw [← BitVec.toNat_inj, toNat_field]

@[simp] theorem Reg.ofIndex_index (r : Reg) : Reg.ofIndex r.index = r := by cases r <;> rfl

@[simp] theorem Reg.index_ofIndex (i : BitVec 4) : (Reg.ofIndex i).index = i := by
  revert i; decide

@[simp] theorem CWidth.ofCode_code (c : CWidth) : CWidth.ofCode c.code = c := by cases c <;> rfl

@[simp] theorem CWidth.code_ofCode (c : BitVec 2) : (CWidth.ofCode c).code = c := by
  revert c; decide

/-! ## The words of each format as numbers -/

theorem toNat_encodeN (opc : BitVec 4) : (encodeN opc).toNat = opc.toNat * 2 ^ 60 := by
  simp only [encodeN, toNat_append_add, BitVec.toNat_ofNat]; omega

theorem toNat_encodeU16 (opc : BitVec 4) (imm : Word) :
    (encodeU16 opc imm).toNat = opc.toNat * 2 ^ 60 + imm.toNat := by
  simp only [encodeU16, toNat_append_add, BitVec.toNat_ofNat]; omega

theorem toNat_encodeAB (opc : BitVec 4) (a b : Word) :
    (encodeAB opc a b).toNat = opc.toNat * 2 ^ 60 + b.toNat * 2 ^ 32 + a.toNat := by
  simp only [encodeAB, toNat_append_add, BitVec.toNat_ofNat]; omega

theorem toNat_encodeR (opc : BitVec 4) (r : Reg) :
    (encodeR opc r).toNat = opc.toNat * 2 ^ 60 + r.index.toNat * 2 ^ 32 := by
  simp only [encodeR, toNat_append_add, BitVec.toNat_ofNat]; omega

theorem toNat_encodeFX (opc : BitVec 4) (d : FxDesc) (a : BitVec 32) :
    (encodeFX opc d a).toNat = opc.toNat * 2 ^ 60 + d.signed.toNat * 2 ^ 59 + d.m.toNat * 2 ^ 54 +
      d.ns.toNat * 2 ^ 49 + d.nd.toNat * 2 ^ 44 + d.cs.code.toNat * 2 ^ 42 +
      d.cd.code.toNat * 2 ^ 40 + a.toNat := by
  simp only [encodeFX, toNat_append_add, BitVec.toNat_ofNat, BitVec.toNat_ofBool]; omega

/-! ## The fields of each format's word -/

theorem encodeN_opc (o : BitVec 4) : field (encodeN o) 60 4 = o := by revert o; decide

theorem encodeN_rest (o : BitVec 4) : field (encodeN o) 0 60 = 0 := by revert o; decide

theorem encodeU16_field_60 (o : BitVec 4) (x : Word) : field (encodeU16 o x) 60 4 = o := by
  rw [field_eq_iff, toNat_encodeU16]; omega

theorem encodeU16_field_16 (o : BitVec 4) (x : Word) : field (encodeU16 o x) 16 44 = 0#44 := by
  rw [field_eq_iff, toNat_encodeU16, BitVec.toNat_ofNat]; omega

theorem encodeU16_field_0 (o : BitVec 4) (x : Word) : field (encodeU16 o x) 0 16 = x := by
  rw [field_eq_iff, toNat_encodeU16]; omega

theorem encodeAB_field_60 (o : BitVec 4) (x y : Word) : field (encodeAB o x y) 60 4 = o := by
  rw [field_eq_iff, toNat_encodeAB]; omega

theorem encodeAB_field_48 (o : BitVec 4) (x y : Word) : field (encodeAB o x y) 48 12 = 0#12 := by
  rw [field_eq_iff, toNat_encodeAB, BitVec.toNat_ofNat]; omega

theorem encodeAB_field_16 (o : BitVec 4) (x y : Word) : field (encodeAB o x y) 16 16 = 0#16 := by
  rw [field_eq_iff, toNat_encodeAB, BitVec.toNat_ofNat]; omega

theorem encodeAB_field_0 (o : BitVec 4) (x y : Word) : field (encodeAB o x y) 0 16 = x := by
  rw [field_eq_iff, toNat_encodeAB]; omega

theorem encodeAB_field_32 (o : BitVec 4) (x y : Word) : field (encodeAB o x y) 32 16 = y := by
  rw [field_eq_iff, toNat_encodeAB]; omega

theorem encodeR_field_60 (o : BitVec 4) (r : Reg) : field (encodeR o r) 60 4 = o := by
  rw [field_eq_iff, toNat_encodeR]; omega

theorem encodeR_field_36 (o : BitVec 4) (r : Reg) : field (encodeR o r) 36 24 = 0#24 := by
  rw [field_eq_iff, toNat_encodeR, BitVec.toNat_ofNat]; omega

theorem encodeR_field_0 (o : BitVec 4) (r : Reg) : field (encodeR o r) 0 32 = 0#32 := by
  rw [field_eq_iff, toNat_encodeR, BitVec.toNat_ofNat]; omega

theorem encodeR_field_32 (o : BitVec 4) (r : Reg) : field (encodeR o r) 32 4 = r.index := by
  rw [field_eq_iff, toNat_encodeR]; omega

theorem encodeFX_field_60 (o : BitVec 4) (d : FxDesc) (a : BitVec 32) : field (encodeFX o d a) 60 4 = o := by
  rw [field_eq_iff, toNat_encodeFX]; have := Bool.toNat_le d.signed; omega

theorem encodeFX_field_59 (o : BitVec 4) (d : FxDesc) (a : BitVec 32) : field (encodeFX o d a) 59 1 = BitVec.ofBool d.signed := by
  rw [field_eq_iff, toNat_encodeFX, BitVec.toNat_ofBool]; have := Bool.toNat_le d.signed; omega

theorem encodeFX_field_54 (o : BitVec 4) (d : FxDesc) (a : BitVec 32) : field (encodeFX o d a) 54 5 = d.m := by
  rw [field_eq_iff, toNat_encodeFX]; have := Bool.toNat_le d.signed; omega

theorem encodeFX_field_49 (o : BitVec 4) (d : FxDesc) (a : BitVec 32) : field (encodeFX o d a) 49 5 = d.ns := by
  rw [field_eq_iff, toNat_encodeFX]; have := Bool.toNat_le d.signed; omega

theorem encodeFX_field_44 (o : BitVec 4) (d : FxDesc) (a : BitVec 32) : field (encodeFX o d a) 44 5 = d.nd := by
  rw [field_eq_iff, toNat_encodeFX]; have := Bool.toNat_le d.signed; omega

theorem encodeFX_field_42 (o : BitVec 4) (d : FxDesc) (a : BitVec 32) : field (encodeFX o d a) 42 2 = d.cs.code := by
  rw [field_eq_iff, toNat_encodeFX]; have := Bool.toNat_le d.signed; omega

theorem encodeFX_field_40 (o : BitVec 4) (d : FxDesc) (a : BitVec 32) : field (encodeFX o d a) 40 2 = d.cd.code := by
  rw [field_eq_iff, toNat_encodeFX]; have := Bool.toNat_le d.signed; omega

theorem encodeFX_field_32 (o : BitVec 4) (d : FxDesc) (a : BitVec 32) : field (encodeFX o d a) 32 8 = 0#8 := by
  rw [field_eq_iff, toNat_encodeFX, BitVec.toNat_ofNat]; have := Bool.toNat_le d.signed; omega

theorem encodeFX_field_0 (o : BitVec 4) (d : FxDesc) (a : BitVec 32) : field (encodeFX o d a) 0 32 = a := by
  rw [field_eq_iff, toNat_encodeFX]; have := Bool.toNat_le d.signed; omega

/-! ## The masks of the table -/

/-- A field is its bits. -/
theorem field_eq_bits (w v : CmdWord) (lo len : Nat) :
    field w lo len = field v lo len ↔ ∀ j < len, w.getLsbD (lo + j) = v.getLsbD (lo + j) := by
  constructor
  · intro h j hj
    have := congrArg (fun b => b.getLsbD j) h
    simpa [field, hj] using this
  · intro h
    apply BitVec.eq_of_getLsbD_eq
    intro j hj
    simp [field, hj, h j hj]

/-- The mask covers the bits of the fields `fs`, each (lowest bit, length), and no other. -/
def Covers (m : CmdWord) (fs : List (Nat × Nat)) : Prop :=
  ∀ k < 64, m.getLsbD k = fs.any fun f => decide (f.1 ≤ k) && decide (k < f.1 + f.2)

/-- A masked comparison is a comparison of the fields the mask covers. -/
theorem masked_eq_iff {m v : CmdWord} {fs : List (Nat × Nat)} (hm : Covers m fs) (hv : v &&& m = v)
    (w : CmdWord) : w &&& m = v ↔ ∀ f ∈ fs, field w f.1 f.2 = field v f.1 f.2 := by
  constructor
  · rintro h f hf
    rw [field_eq_bits]
    intro j hj
    rcases Nat.lt_or_ge (f.1 + j) 64 with hk | hk
    · have h1 : m.getLsbD (f.1 + j) = true := by
        rw [hm _ hk, List.any_eq_true]
        exact ⟨f, hf, by simp; omega⟩
      have h2 : (w &&& m).getLsbD (f.1 + j) = v.getLsbD (f.1 + j) := by rw [h]
      rw [← h2, BitVec.getLsbD_and, h1, Bool.and_true]
    · rw [BitVec.getLsbD_of_ge _ _ hk, BitVec.getLsbD_of_ge _ _ hk]
  · intro h
    rw [← hv]
    apply BitVec.eq_of_getLsbD_eq
    intro k hk
    rw [BitVec.getLsbD_and, BitVec.getLsbD_and]
    cases hb : m.getLsbD k
    · simp
    · rw [hm _ hk, List.any_eq_true] at hb
      obtain ⟨f, hf, hin⟩ := hb
      simp only [Bool.and_eq_true, decide_eq_true_eq] at hin
      have := (field_eq_bits w v f.1 f.2).mp (h f hf) (k - f.1) (by omega)
      rw [Nat.add_sub_cancel' hin.1] at this
      rw [this]

/-- The mask of format N (R112) compares the opcode and the reserved bits. -/
theorem matches_n {v : CmdWord} (w : CmdWord) :
    w &&& 0xFFFFFFFFFFFFFFFF = v ↔ field w 60 4 = field v 60 4 ∧ field w 0 60 = field v 0 60 := by
  have hv : v &&& 0xFFFFFFFFFFFFFFFF = v := BitVec.and_allOnes
  rw [masked_eq_iff (fs := [(60, 4), (0, 60)]) (by unfold Covers; decide) hv]
  simp

/-- The mask of format U16 (R113) compares the opcode and the reserved bits. -/
theorem matches_u16 {v : CmdWord} (hv : v &&& 0xFFFFFFFFFFFF0000 = v) (w : CmdWord) :
    w &&& 0xFFFFFFFFFFFF0000 = v ↔ field w 60 4 = field v 60 4 ∧ field w 16 44 = field v 16 44 := by
  rw [masked_eq_iff (fs := [(60, 4), (16, 44)]) (by unfold Covers; decide) hv]
  simp

/-- The mask of format AB (R114) compares the opcode and the reserved bits. -/
theorem matches_ab {v : CmdWord} (hv : v &&& 0xFFFF0000FFFF0000 = v) (w : CmdWord) :
    w &&& 0xFFFF0000FFFF0000 = v ↔
      field w 60 4 = field v 60 4 ∧ field w 48 12 = field v 48 12 ∧ field w 16 16 = field v 16 16 := by
  rw [masked_eq_iff (fs := [(60, 4), (48, 12), (16, 16)]) (by unfold Covers; decide) hv]
  simp

/-- The mask of format R (R115) compares the opcode and the reserved bits. -/
theorem matches_r {v : CmdWord} (hv : v &&& 0xFFFFFFF0FFFFFFFF = v) (w : CmdWord) :
    w &&& 0xFFFFFFF0FFFFFFFF = v ↔
      field w 60 4 = field v 60 4 ∧ field w 36 24 = field v 36 24 ∧ field w 0 32 = field v 0 32 := by
  rw [masked_eq_iff (fs := [(60, 4), (36, 24), (0, 32)]) (by unfold Covers; decide) hv]
  simp

/-- The mask of format FX (R116) compares the opcode and the reserved bits. -/
theorem matches_fx {v : CmdWord} (hv : v &&& 0xF00000FF00000000 = v) (w : CmdWord) :
    w &&& 0xF00000FF00000000 = v ↔ field w 60 4 = field v 60 4 ∧ field w 32 8 = field v 32 8 := by
  rw [masked_eq_iff (fs := [(60, 4), (32, 8)]) (by unfold Covers; decide) hv]
  simp

/-- A rejected word and an accepted one: what each format's reader answers. -/
theorem decode_ok_opcode {w : CmdWord} {i : Instr} (h : decode w = .ok i) :
    field w 60 4 ≠ 0x0 ∧ field w 60 4 ≠ 0xF := by
  constructor <;> intro h0 <;> simp [decode, h0] at h

end Sys2Proof
end

