-- ==== Sys2Proof/Laws/State.lean ====
section
/-!
SUPPORT. One lemma per field per named update of State (Machine/Ops.lean), so that no later proof unfolds a record
update.
-/
namespace Sys2Proof.Machine

/-! ## State.respond -/

@[simp] theorem State.respond_freq (st : Status) (d : RspData) (s : State) :
    (s.respond st d).freq = s.freq := rfl
@[simp] theorem State.respond_phi (st : Status) (d : RspData) (s : State) :
    (s.respond st d).phi = s.phi := rfl
@[simp] theorem State.respond_att (st : Status) (d : RspData) (s : State) :
    (s.respond st d).att = s.att := rfl
@[simp] theorem State.respond_pp (st : Status) (d : RspData) (s : State) : (s.respond st d).pp = s.pp := rfl
@[simp] theorem State.respond_fault (st : Status) (d : RspData) (s : State) :
    (s.respond st d).fault = s.fault := rfl
@[simp] theorem State.respond_phi0 (st : Status) (d : RspData) (s : State) :
    (s.respond st d).phi0 = s.phi0 := rfl
@[simp] theorem State.respond_val0 (st : Status) (d : RspData) (s : State) :
    (s.respond st d).val0 = s.val0 := rfl
@[simp] theorem State.respond_phi1 (st : Status) (d : RspData) (s : State) :
    (s.respond st d).phi1 = s.phi1 := rfl
@[simp] theorem State.respond_val1 (st : Status) (d : RspData) (s : State) :
    (s.respond st d).val1 = s.val1 := rfl
@[simp] theorem State.respond_steps (st : Status) (d : RspData) (s : State) :
    (s.respond st d).steps = s.steps := rfl
@[simp] theorem State.respond_sampl (st : Status) (d : RspData) (s : State) :
    (s.respond st d).sampl = s.sampl := rfl
@[simp] theorem State.respond_msize (st : Status) (d : RspData) (s : State) :
    (s.respond st d).msize = s.msize := rfl
@[simp] theorem State.respond_asize (st : Status) (d : RspData) (s : State) :
    (s.respond st d).asize = s.asize := rfl
@[simp] theorem State.respond_sidx (st : Status) (d : RspData) (s : State) :
    (s.respond st d).sidx = s.sidx := rfl
@[simp] theorem State.respond_ridx (st : Status) (d : RspData) (s : State) :
    (s.respond st d).ridx = s.ridx := rfl
@[simp] theorem State.respond_aidx (st : Status) (d : RspData) (s : State) :
    (s.respond st d).aidx = s.aidx := rfl
@[simp] theorem State.respond_halted (st : Status) (d : RspData) (s : State) :
    (s.respond st d).halted = s.halted := rfl
@[simp] theorem State.respond_params (st : Status) (d : RspData) (s : State) :
    (s.respond st d).params = s.params := rfl
@[simp] theorem State.respond_romIsqrt (st : Status) (d : RspData) (s : State) :
    (s.respond st d).romIsqrt = s.romIsqrt := rfl
@[simp] theorem State.respond_program (st : Status) (d : RspData) (s : State) :
    (s.respond st d).program = s.program := rfl
@[simp] theorem State.respond_pos (st : Status) (d : RspData) (s : State) :
    (s.respond st d).pos = s.pos + 1 := rfl
@[simp] theorem State.respond_responses (st : Status) (d : RspData) (s : State) :
    (s.respond st d).responses = s.responses ++ [⟨st, d⟩] := rfl

/-! ## State.setFreq -/

@[simp] theorem State.setFreq_freq (v : Word) (s : State) : (s.setFreq v).freq = v := rfl
@[simp] theorem State.setFreq_phi (v : Word) (s : State) : (s.setFreq v).phi = s.phi := rfl
@[simp] theorem State.setFreq_att (v : Word) (s : State) : (s.setFreq v).att = s.att := rfl
@[simp] theorem State.setFreq_pp (v : Word) (s : State) : (s.setFreq v).pp = s.pp := rfl
@[simp] theorem State.setFreq_fault (v : Word) (s : State) : (s.setFreq v).fault = s.fault := rfl
@[simp] theorem State.setFreq_phi0 (v : Word) (s : State) : (s.setFreq v).phi0 = s.phi0 := rfl
@[simp] theorem State.setFreq_val0 (v : Word) (s : State) : (s.setFreq v).val0 = s.val0 := rfl
@[simp] theorem State.setFreq_phi1 (v : Word) (s : State) : (s.setFreq v).phi1 = s.phi1 := rfl
@[simp] theorem State.setFreq_val1 (v : Word) (s : State) : (s.setFreq v).val1 = s.val1 := rfl
@[simp] theorem State.setFreq_steps (v : Word) (s : State) : (s.setFreq v).steps = s.steps := rfl
@[simp] theorem State.setFreq_sampl (v : Word) (s : State) : (s.setFreq v).sampl = s.sampl := rfl
@[simp] theorem State.setFreq_msize (v : Word) (s : State) : (s.setFreq v).msize = s.msize := rfl
@[simp] theorem State.setFreq_asize (v : Word) (s : State) : (s.setFreq v).asize = s.asize := rfl
@[simp] theorem State.setFreq_sidx (v : Word) (s : State) : (s.setFreq v).sidx = s.sidx := rfl
@[simp] theorem State.setFreq_ridx (v : Word) (s : State) : (s.setFreq v).ridx = s.ridx := rfl
@[simp] theorem State.setFreq_aidx (v : Word) (s : State) : (s.setFreq v).aidx = s.aidx := rfl
@[simp] theorem State.setFreq_halted (v : Word) (s : State) : (s.setFreq v).halted = s.halted := rfl
@[simp] theorem State.setFreq_params (v : Word) (s : State) : (s.setFreq v).params = s.params := rfl
@[simp] theorem State.setFreq_romIsqrt (v : Word) (s : State) : (s.setFreq v).romIsqrt = s.romIsqrt := rfl
@[simp] theorem State.setFreq_program (v : Word) (s : State) : (s.setFreq v).program = s.program := rfl
@[simp] theorem State.setFreq_pos (v : Word) (s : State) : (s.setFreq v).pos = s.pos := rfl
@[simp] theorem State.setFreq_responses (v : Word) (s : State) : (s.setFreq v).responses = s.responses := rfl

/-! ## State.setPhi -/

@[simp] theorem State.setPhi_freq (v : Word) (s : State) : (s.setPhi v).freq = s.freq := rfl
@[simp] theorem State.setPhi_phi (v : Word) (s : State) : (s.setPhi v).phi = v := rfl
@[simp] theorem State.setPhi_att (v : Word) (s : State) : (s.setPhi v).att = s.att := rfl
@[simp] theorem State.setPhi_pp (v : Word) (s : State) : (s.setPhi v).pp = s.pp := rfl
@[simp] theorem State.setPhi_fault (v : Word) (s : State) : (s.setPhi v).fault = s.fault := rfl
@[simp] theorem State.setPhi_phi0 (v : Word) (s : State) : (s.setPhi v).phi0 = s.phi0 := rfl
@[simp] theorem State.setPhi_val0 (v : Word) (s : State) : (s.setPhi v).val0 = s.val0 := rfl
@[simp] theorem State.setPhi_phi1 (v : Word) (s : State) : (s.setPhi v).phi1 = s.phi1 := rfl
@[simp] theorem State.setPhi_val1 (v : Word) (s : State) : (s.setPhi v).val1 = s.val1 := rfl
@[simp] theorem State.setPhi_steps (v : Word) (s : State) : (s.setPhi v).steps = s.steps := rfl
@[simp] theorem State.setPhi_sampl (v : Word) (s : State) : (s.setPhi v).sampl = s.sampl := rfl
@[simp] theorem State.setPhi_msize (v : Word) (s : State) : (s.setPhi v).msize = s.msize := rfl
@[simp] theorem State.setPhi_asize (v : Word) (s : State) : (s.setPhi v).asize = s.asize := rfl
@[simp] theorem State.setPhi_sidx (v : Word) (s : State) : (s.setPhi v).sidx = s.sidx := rfl
@[simp] theorem State.setPhi_ridx (v : Word) (s : State) : (s.setPhi v).ridx = s.ridx := rfl
@[simp] theorem State.setPhi_aidx (v : Word) (s : State) : (s.setPhi v).aidx = s.aidx := rfl
@[simp] theorem State.setPhi_halted (v : Word) (s : State) : (s.setPhi v).halted = s.halted := rfl
@[simp] theorem State.setPhi_params (v : Word) (s : State) : (s.setPhi v).params = s.params := rfl
@[simp] theorem State.setPhi_romIsqrt (v : Word) (s : State) : (s.setPhi v).romIsqrt = s.romIsqrt := rfl
@[simp] theorem State.setPhi_program (v : Word) (s : State) : (s.setPhi v).program = s.program := rfl
@[simp] theorem State.setPhi_pos (v : Word) (s : State) : (s.setPhi v).pos = s.pos := rfl
@[simp] theorem State.setPhi_responses (v : Word) (s : State) : (s.setPhi v).responses = s.responses := rfl

/-! ## State.setAtt -/

@[simp] theorem State.setAtt_freq (v : Word) (s : State) : (s.setAtt v).freq = s.freq := rfl
@[simp] theorem State.setAtt_phi (v : Word) (s : State) : (s.setAtt v).phi = s.phi := rfl
@[simp] theorem State.setAtt_att (v : Word) (s : State) : (s.setAtt v).att = v := rfl
@[simp] theorem State.setAtt_pp (v : Word) (s : State) : (s.setAtt v).pp = s.pp := rfl
@[simp] theorem State.setAtt_fault (v : Word) (s : State) : (s.setAtt v).fault = s.fault := rfl
@[simp] theorem State.setAtt_phi0 (v : Word) (s : State) : (s.setAtt v).phi0 = s.phi0 := rfl
@[simp] theorem State.setAtt_val0 (v : Word) (s : State) : (s.setAtt v).val0 = s.val0 := rfl
@[simp] theorem State.setAtt_phi1 (v : Word) (s : State) : (s.setAtt v).phi1 = s.phi1 := rfl
@[simp] theorem State.setAtt_val1 (v : Word) (s : State) : (s.setAtt v).val1 = s.val1 := rfl
@[simp] theorem State.setAtt_steps (v : Word) (s : State) : (s.setAtt v).steps = s.steps := rfl
@[simp] theorem State.setAtt_sampl (v : Word) (s : State) : (s.setAtt v).sampl = s.sampl := rfl
@[simp] theorem State.setAtt_msize (v : Word) (s : State) : (s.setAtt v).msize = s.msize := rfl
@[simp] theorem State.setAtt_asize (v : Word) (s : State) : (s.setAtt v).asize = s.asize := rfl
@[simp] theorem State.setAtt_sidx (v : Word) (s : State) : (s.setAtt v).sidx = s.sidx := rfl
@[simp] theorem State.setAtt_ridx (v : Word) (s : State) : (s.setAtt v).ridx = s.ridx := rfl
@[simp] theorem State.setAtt_aidx (v : Word) (s : State) : (s.setAtt v).aidx = s.aidx := rfl
@[simp] theorem State.setAtt_halted (v : Word) (s : State) : (s.setAtt v).halted = s.halted := rfl
@[simp] theorem State.setAtt_params (v : Word) (s : State) : (s.setAtt v).params = s.params := rfl
@[simp] theorem State.setAtt_romIsqrt (v : Word) (s : State) : (s.setAtt v).romIsqrt = s.romIsqrt := rfl
@[simp] theorem State.setAtt_program (v : Word) (s : State) : (s.setAtt v).program = s.program := rfl
@[simp] theorem State.setAtt_pos (v : Word) (s : State) : (s.setAtt v).pos = s.pos := rfl
@[simp] theorem State.setAtt_responses (v : Word) (s : State) : (s.setAtt v).responses = s.responses := rfl

/-! ## State.setSidx -/

@[simp] theorem State.setSidx_freq (v : Word) (s : State) : (s.setSidx v).freq = s.freq := rfl
@[simp] theorem State.setSidx_phi (v : Word) (s : State) : (s.setSidx v).phi = s.phi := rfl
@[simp] theorem State.setSidx_att (v : Word) (s : State) : (s.setSidx v).att = s.att := rfl
@[simp] theorem State.setSidx_pp (v : Word) (s : State) : (s.setSidx v).pp = s.pp := rfl
@[simp] theorem State.setSidx_fault (v : Word) (s : State) : (s.setSidx v).fault = s.fault := rfl
@[simp] theorem State.setSidx_phi0 (v : Word) (s : State) : (s.setSidx v).phi0 = s.phi0 := rfl
@[simp] theorem State.setSidx_val0 (v : Word) (s : State) : (s.setSidx v).val0 = s.val0 := rfl
@[simp] theorem State.setSidx_phi1 (v : Word) (s : State) : (s.setSidx v).phi1 = s.phi1 := rfl
@[simp] theorem State.setSidx_val1 (v : Word) (s : State) : (s.setSidx v).val1 = s.val1 := rfl
@[simp] theorem State.setSidx_steps (v : Word) (s : State) : (s.setSidx v).steps = s.steps := rfl
@[simp] theorem State.setSidx_sampl (v : Word) (s : State) : (s.setSidx v).sampl = s.sampl := rfl
@[simp] theorem State.setSidx_msize (v : Word) (s : State) : (s.setSidx v).msize = s.msize := rfl
@[simp] theorem State.setSidx_asize (v : Word) (s : State) : (s.setSidx v).asize = s.asize := rfl
@[simp] theorem State.setSidx_sidx (v : Word) (s : State) : (s.setSidx v).sidx = v := rfl
@[simp] theorem State.setSidx_ridx (v : Word) (s : State) : (s.setSidx v).ridx = s.ridx := rfl
@[simp] theorem State.setSidx_aidx (v : Word) (s : State) : (s.setSidx v).aidx = s.aidx := rfl
@[simp] theorem State.setSidx_halted (v : Word) (s : State) : (s.setSidx v).halted = s.halted := rfl
@[simp] theorem State.setSidx_params (v : Word) (s : State) : (s.setSidx v).params = s.params := rfl
@[simp] theorem State.setSidx_romIsqrt (v : Word) (s : State) : (s.setSidx v).romIsqrt = s.romIsqrt := rfl
@[simp] theorem State.setSidx_program (v : Word) (s : State) : (s.setSidx v).program = s.program := rfl
@[simp] theorem State.setSidx_pos (v : Word) (s : State) : (s.setSidx v).pos = s.pos := rfl
@[simp] theorem State.setSidx_responses (v : Word) (s : State) : (s.setSidx v).responses = s.responses := rfl

/-! ## State.setBoundary -/

@[simp] theorem State.setBoundary_freq (p v : Word) (s : State) : (s.setBoundary p v).freq = s.freq := rfl
@[simp] theorem State.setBoundary_phi (p v : Word) (s : State) : (s.setBoundary p v).phi = s.phi := rfl
@[simp] theorem State.setBoundary_att (p v : Word) (s : State) : (s.setBoundary p v).att = s.att := rfl
@[simp] theorem State.setBoundary_pp (p v : Word) (s : State) : (s.setBoundary p v).pp = s.pp := rfl
@[simp] theorem State.setBoundary_fault (p v : Word) (s : State) : (s.setBoundary p v).fault = s.fault := rfl
@[simp] theorem State.setBoundary_phi0 (p v : Word) (s : State) : (s.setBoundary p v).phi0 = p := rfl
@[simp] theorem State.setBoundary_val0 (p v : Word) (s : State) : (s.setBoundary p v).val0 = v := rfl
@[simp] theorem State.setBoundary_phi1 (p v : Word) (s : State) : (s.setBoundary p v).phi1 = s.phi1 := rfl
@[simp] theorem State.setBoundary_val1 (p v : Word) (s : State) : (s.setBoundary p v).val1 = s.val1 := rfl
@[simp] theorem State.setBoundary_steps (p v : Word) (s : State) : (s.setBoundary p v).steps = s.steps := rfl
@[simp] theorem State.setBoundary_sampl (p v : Word) (s : State) : (s.setBoundary p v).sampl = s.sampl := rfl
@[simp] theorem State.setBoundary_msize (p v : Word) (s : State) : (s.setBoundary p v).msize = s.msize := rfl
@[simp] theorem State.setBoundary_asize (p v : Word) (s : State) : (s.setBoundary p v).asize = s.asize := rfl
@[simp] theorem State.setBoundary_sidx (p v : Word) (s : State) : (s.setBoundary p v).sidx = s.sidx := rfl
@[simp] theorem State.setBoundary_ridx (p v : Word) (s : State) : (s.setBoundary p v).ridx = s.ridx := rfl
@[simp] theorem State.setBoundary_aidx (p v : Word) (s : State) : (s.setBoundary p v).aidx = s.aidx := rfl
@[simp] theorem State.setBoundary_halted (p v : Word) (s : State) :
    (s.setBoundary p v).halted = s.halted := rfl
@[simp] theorem State.setBoundary_params (p v : Word) (s : State) :
    (s.setBoundary p v).params = s.params := rfl
@[simp] theorem State.setBoundary_romIsqrt (p v : Word) (s : State) :
    (s.setBoundary p v).romIsqrt = s.romIsqrt := rfl
@[simp] theorem State.setBoundary_program (p v : Word) (s : State) :
    (s.setBoundary p v).program = s.program := rfl
@[simp] theorem State.setBoundary_pos (p v : Word) (s : State) : (s.setBoundary p v).pos = s.pos := rfl
@[simp] theorem State.setBoundary_responses (p v : Word) (s : State) :
    (s.setBoundary p v).responses = s.responses := rfl

/-! ## State.clear -/

@[simp] theorem State.clear_freq (s : State) : s.clear.freq = s.freq := rfl
@[simp] theorem State.clear_phi (s : State) : s.clear.phi = s.phi := rfl
@[simp] theorem State.clear_att (s : State) : s.clear.att = s.att := rfl
@[simp] theorem State.clear_pp (s : State) : s.clear.pp = false := rfl
@[simp] theorem State.clear_fault (s : State) : s.clear.fault = s.fault := rfl
@[simp] theorem State.clear_phi0 (s : State) : s.clear.phi0 = s.phi0 := rfl
@[simp] theorem State.clear_val0 (s : State) : s.clear.val0 = s.val0 := rfl
@[simp] theorem State.clear_phi1 (s : State) : s.clear.phi1 = 0 := rfl
@[simp] theorem State.clear_val1 (s : State) : s.clear.val1 = 0 := rfl
@[simp] theorem State.clear_steps (s : State) : s.clear.steps = 0 := rfl
@[simp] theorem State.clear_sampl (s : State) : s.clear.sampl = 0 := rfl
@[simp] theorem State.clear_msize (s : State) : s.clear.msize = 0 := rfl
@[simp] theorem State.clear_asize (s : State) : s.clear.asize = 0 := rfl
@[simp] theorem State.clear_sidx (s : State) : s.clear.sidx = s.sidx := rfl
@[simp] theorem State.clear_ridx (s : State) : s.clear.ridx = 0 := rfl
@[simp] theorem State.clear_aidx (s : State) : s.clear.aidx = 0 := rfl
@[simp] theorem State.clear_halted (s : State) : s.clear.halted = s.halted := rfl
@[simp] theorem State.clear_params (s : State) : s.clear.params = s.params := rfl
@[simp] theorem State.clear_romIsqrt (s : State) : s.clear.romIsqrt = s.romIsqrt := rfl
@[simp] theorem State.clear_program (s : State) : s.clear.program = s.program := rfl
@[simp] theorem State.clear_pos (s : State) : s.clear.pos = s.pos := rfl
@[simp] theorem State.clear_responses (s : State) : s.clear.responses = s.responses := rfl

/-! ## State.activate -/

@[simp] theorem State.activate_freq (w : Window) (s : State) : (s.activate w).freq = s.freq := rfl
@[simp] theorem State.activate_phi (w : Window) (s : State) : (s.activate w).phi = s.phi := rfl
@[simp] theorem State.activate_att (w : Window) (s : State) : (s.activate w).att = s.att := rfl
@[simp] theorem State.activate_pp (w : Window) (s : State) : (s.activate w).pp = true := rfl
@[simp] theorem State.activate_fault (w : Window) (s : State) : (s.activate w).fault = s.fault := rfl
@[simp] theorem State.activate_phi0 (w : Window) (s : State) : (s.activate w).phi0 = s.phi0 := rfl
@[simp] theorem State.activate_val0 (w : Window) (s : State) : (s.activate w).val0 = s.val0 := rfl
@[simp] theorem State.activate_phi1 (w : Window) (s : State) :
    (s.activate w).phi1 = s.phi0 + BitVec.ofNat 16 (w.sampl * s.freq.toNat) := rfl
@[simp] theorem State.activate_val1 (w : Window) (s : State) : (s.activate w).val1 = bits16 w.val1 := rfl
@[simp] theorem State.activate_steps (w : Window) (s : State) :
    (s.activate w).steps = BitVec.ofNat 16 w.steps := rfl
@[simp] theorem State.activate_sampl (w : Window) (s : State) :
    (s.activate w).sampl = BitVec.ofNat 16 w.sampl := rfl
@[simp] theorem State.activate_msize (w : Window) (s : State) :
    (s.activate w).msize = BitVec.ofNat 16 (w.sampl / w.steps) := rfl
@[simp] theorem State.activate_asize (w : Window) (s : State) :
    (s.activate w).asize = BitVec.ofNat 16 (w.sampl % w.steps) := rfl
@[simp] theorem State.activate_sidx (w : Window) (s : State) : (s.activate w).sidx = s.sidx := rfl
@[simp] theorem State.activate_ridx (w : Window) (s : State) :
    (s.activate w).ridx = BitVec.ofNat 16 ((w.steps - 1) * (w.sampl / w.steps) + w.sampl % w.steps) := rfl
@[simp] theorem State.activate_aidx (w : Window) (s : State) :
    (s.activate w).aidx = BitVec.ofNat 16 ((w.steps - 1) * (w.sampl / w.steps)) := rfl
@[simp] theorem State.activate_halted (w : Window) (s : State) : (s.activate w).halted = s.halted := rfl
@[simp] theorem State.activate_params (w : Window) (s : State) : (s.activate w).params = s.params := rfl
@[simp] theorem State.activate_romIsqrt (w : Window) (s : State) : (s.activate w).romIsqrt = s.romIsqrt := rfl
@[simp] theorem State.activate_program (w : Window) (s : State) : (s.activate w).program = s.program := rfl
@[simp] theorem State.activate_pos (w : Window) (s : State) : (s.activate w).pos = s.pos := rfl
@[simp] theorem State.activate_responses (w : Window) (s : State) :
    (s.activate w).responses = s.responses := rfl

/-! ## State.markFault -/

@[simp] theorem State.markFault_freq (s : State) : s.markFault.freq = s.freq := rfl
@[simp] theorem State.markFault_phi (s : State) : s.markFault.phi = s.phi := rfl
@[simp] theorem State.markFault_att (s : State) : s.markFault.att = s.att := rfl
@[simp] theorem State.markFault_pp (s : State) : s.markFault.pp = s.pp := rfl
@[simp] theorem State.markFault_fault (s : State) : s.markFault.fault = true := rfl
@[simp] theorem State.markFault_phi0 (s : State) : s.markFault.phi0 = s.phi0 := rfl
@[simp] theorem State.markFault_val0 (s : State) : s.markFault.val0 = s.val0 := rfl
@[simp] theorem State.markFault_phi1 (s : State) : s.markFault.phi1 = s.phi1 := rfl
@[simp] theorem State.markFault_val1 (s : State) : s.markFault.val1 = s.val1 := rfl
@[simp] theorem State.markFault_steps (s : State) : s.markFault.steps = s.steps := rfl
@[simp] theorem State.markFault_sampl (s : State) : s.markFault.sampl = s.sampl := rfl
@[simp] theorem State.markFault_msize (s : State) : s.markFault.msize = s.msize := rfl
@[simp] theorem State.markFault_asize (s : State) : s.markFault.asize = s.asize := rfl
@[simp] theorem State.markFault_sidx (s : State) : s.markFault.sidx = s.sidx := rfl
@[simp] theorem State.markFault_ridx (s : State) : s.markFault.ridx = s.ridx := rfl
@[simp] theorem State.markFault_aidx (s : State) : s.markFault.aidx = s.aidx := rfl
@[simp] theorem State.markFault_halted (s : State) : s.markFault.halted = s.halted := rfl
@[simp] theorem State.markFault_params (s : State) : s.markFault.params = s.params := rfl
@[simp] theorem State.markFault_romIsqrt (s : State) : s.markFault.romIsqrt = s.romIsqrt := rfl
@[simp] theorem State.markFault_program (s : State) : s.markFault.program = s.program := rfl
@[simp] theorem State.markFault_pos (s : State) : s.markFault.pos = s.pos := rfl
@[simp] theorem State.markFault_responses (s : State) : s.markFault.responses = s.responses := rfl

/-! ## State.halt -/

@[simp] theorem State.halt_freq (s : State) : s.halt.freq = s.freq := rfl
@[simp] theorem State.halt_phi (s : State) : s.halt.phi = s.phi := rfl
@[simp] theorem State.halt_att (s : State) : s.halt.att = s.att := rfl
@[simp] theorem State.halt_pp (s : State) : s.halt.pp = s.pp := rfl
@[simp] theorem State.halt_fault (s : State) : s.halt.fault = s.fault := rfl
@[simp] theorem State.halt_phi0 (s : State) : s.halt.phi0 = s.phi0 := rfl
@[simp] theorem State.halt_val0 (s : State) : s.halt.val0 = s.val0 := rfl
@[simp] theorem State.halt_phi1 (s : State) : s.halt.phi1 = s.phi1 := rfl
@[simp] theorem State.halt_val1 (s : State) : s.halt.val1 = s.val1 := rfl
@[simp] theorem State.halt_steps (s : State) : s.halt.steps = s.steps := rfl
@[simp] theorem State.halt_sampl (s : State) : s.halt.sampl = s.sampl := rfl
@[simp] theorem State.halt_msize (s : State) : s.halt.msize = s.msize := rfl
@[simp] theorem State.halt_asize (s : State) : s.halt.asize = s.asize := rfl
@[simp] theorem State.halt_sidx (s : State) : s.halt.sidx = s.sidx := rfl
@[simp] theorem State.halt_ridx (s : State) : s.halt.ridx = s.ridx := rfl
@[simp] theorem State.halt_aidx (s : State) : s.halt.aidx = s.aidx := rfl
@[simp] theorem State.halt_halted (s : State) : s.halt.halted = true := rfl
@[simp] theorem State.halt_params (s : State) : s.halt.params = s.params := rfl
@[simp] theorem State.halt_romIsqrt (s : State) : s.halt.romIsqrt = s.romIsqrt := rfl
@[simp] theorem State.halt_program (s : State) : s.halt.program = s.program := rfl
@[simp] theorem State.halt_pos (s : State) : s.halt.pos = s.pos := rfl
@[simp] theorem State.halt_responses (s : State) : s.halt.responses = s.responses := rfl

@[simp] theorem State.assertReset_freq (s : State) : s.assertReset.freq = 0 := rfl
@[simp] theorem State.assertReset_phi (s : State) : s.assertReset.phi = 0 := rfl
@[simp] theorem State.assertReset_att (s : State) : s.assertReset.att = 0 := rfl
@[simp] theorem State.assertReset_phi0 (s : State) : s.assertReset.phi0 = 0 := rfl
@[simp] theorem State.assertReset_val0 (s : State) : s.assertReset.val0 = 0 := rfl
@[simp] theorem State.assertReset_phi1 (s : State) : s.assertReset.phi1 = 0 := rfl
@[simp] theorem State.assertReset_val1 (s : State) : s.assertReset.val1 = 0 := rfl
@[simp] theorem State.assertReset_steps (s : State) : s.assertReset.steps = 0 := rfl
@[simp] theorem State.assertReset_sampl (s : State) : s.assertReset.sampl = 0 := rfl
@[simp] theorem State.assertReset_msize (s : State) : s.assertReset.msize = 0 := rfl
@[simp] theorem State.assertReset_asize (s : State) : s.assertReset.asize = 0 := rfl
@[simp] theorem State.assertReset_sidx (s : State) : s.assertReset.sidx = 0 := rfl
@[simp] theorem State.assertReset_ridx (s : State) : s.assertReset.ridx = 0 := rfl
@[simp] theorem State.assertReset_aidx (s : State) : s.assertReset.aidx = 0 := rfl
@[simp] theorem State.assertReset_pp (s : State) : s.assertReset.pp = false := rfl
@[simp] theorem State.assertReset_fault (s : State) : s.assertReset.fault = false := rfl
@[simp] theorem State.assertReset_halted (s : State) : s.assertReset.halted = false := rfl
@[simp] theorem State.assertReset_params (s : State) : s.assertReset.params = s.params := rfl
@[simp] theorem State.assertReset_romIsqrt (s : State) : s.assertReset.romIsqrt = s.romIsqrt := rfl
@[simp] theorem State.assertReset_program (s : State) : s.assertReset.program = [] := rfl
@[simp] theorem State.assertReset_pos (s : State) : s.assertReset.pos = 0 := rfl
@[simp] theorem State.assertReset_responses (s : State) : s.assertReset.responses = [] := rfl

end Sys2Proof.Machine
end

