-- ==== Sys2Proof/Laws/Smoother.lean ====
section
/-!
SUPPORT. What the scan, the lookahead, REBUILD and RETIRE do (43_smoother.md R281 to R300): the scan's result by
relations, the lookahead's two outcomes, and the fields each procedure leaves.
-/
namespace Sys2Proof.Machine

/-! ## The scan -/

/-- The phase j steps of `freq` after `p`. -/
abbrev phaseAfter (p freq : Word) (j : Nat) : Word := p + BitVec.ofNat 16 (j * freq.toNat)

theorem phaseAfter_succ (p freq : Word) (j : Nat) :
    phaseAfter (p + freq) freq j = phaseAfter p freq (j + 1) := by
  have : BitVec.ofNat 16 ((j + 1) * freq.toNat) = BitVec.ofNat 16 (j * freq.toNat) + freq := by
    rw [Nat.succ_mul, BitVec.ofNat_add, BitVec.ofNat_toNat, BitVec.setWidth_eq]
  rw [phaseAfter, phaseAfter, this, BitVec.add_assoc, BitVec.add_comm freq]

theorem phaseAfter_zero (p freq : Word) : phaseAfter p freq 0 = p := by simp [phaseAfter]

/-- A transition the loop finds (R282): it lies within the bounds, it is the first change, and the value there. -/
theorem scanLoop_found {prm : Params} {att freq : Word} {v0 : Int} {h : ScanHit} :
    ∀ {fuel : Nat} {p : Word} {cnt : Nat}, scanLoop prm att freq v0 fuel p cnt = some h →
      ∃ n, 1 ≤ n ∧ n ≤ fuel ∧ h.cnt = cnt + n ∧ h.cnt * freq.toNat ≤ Config.scanPhaseBound ∧
        h.phase = phaseAfter p freq n ∧ h.val = msineFn prm h.phase att ∧ h.val ≠ v0 ∧
        ∀ j, 1 ≤ j → j < n → msineFn prm (phaseAfter p freq j) att = v0 := by
  intro fuel
  induction fuel with
  | zero => intro p cnt hs; simp [scanLoop] at hs
  | succ fuel ih =>
    intro p cnt hs
    have hone : phaseAfter p freq 1 = p + freq := by rw [← phaseAfter_succ, phaseAfter_zero]
    rw [scanLoop] at hs
    split at hs
    · cases hs
    · split at hs
      · rename_i hb hne
        cases hs
        exact ⟨1, le_rfl, by omega, rfl, by simpa using hb, hone.symm, rfl, hne,
          fun j h1 h2 => absurd h2 (by omega)⟩
      · rename_i heq
        obtain ⟨n, h1, h2, h3, h4, h5, h6, h7, h8⟩ := ih hs
        refine ⟨n + 1, by omega, by omega, by omega, h4, by rw [h5, phaseAfter_succ], h6, h7, ?_⟩
        intro j hj hjn
        obtain ⟨k, rfl⟩ : ∃ k, j = k + 1 := ⟨j - 1, by omega⟩
        rcases Nat.eq_zero_or_pos k with rfl | hk
        · rw [hone]; simpa using heq
        · rw [← phaseAfter_succ]; exact h8 k hk (by omega)

/-- An exhausted loop (R283) has found no change at any step within the bounds. -/
theorem scanLoop_exhausted {prm : Params} {att freq : Word} {v0 : Int} :
    ∀ {fuel : Nat} {p : Word} {cnt : Nat}, scanLoop prm att freq v0 fuel p cnt = none →
      ∀ j, 1 ≤ j → j ≤ fuel → (cnt + j) * freq.toNat ≤ Config.scanPhaseBound →
        msineFn prm (phaseAfter p freq j) att = v0 := by
  intro fuel
  induction fuel with
  | zero => intro p cnt _ j h1 h2; omega
  | succ fuel ih =>
    intro p cnt hs j h1 h2 h3
    have hone : phaseAfter p freq 1 = p + freq := by rw [← phaseAfter_succ, phaseAfter_zero]
    have hmono : (cnt + 1) * freq.toNat ≤ (cnt + j) * freq.toNat :=
      Nat.mul_le_mul_right _ (by omega)
    rw [scanLoop, if_neg (by omega)] at hs
    split at hs
    · cases hs
    · rename_i heq
      obtain ⟨k, rfl⟩ : ∃ k, j = k + 1 := ⟨j - 1, by omega⟩
      rcases Nat.eq_zero_or_pos k with rfl | hk
      · rw [hone]; simpa using heq
      · rw [← phaseAfter_succ]
        exact ih hs k hk (by omega) (by rwa [show cnt + 1 + k = cnt + (k + 1) by omega])

/-! ## The lookahead -/

/-- A window the lookahead finds comes from two scans (R286). -/
theorem findWindow_some {s : State} {w : Window} (h : findWindow s = some w) :
    s.params.ppEnable = true ∧ s.freq ≠ 0 ∧
      ∃ h1 h2, scan s s.phi0 s.val0.toInt = some h1 ∧
        (h1.val - s.val0.toInt).natAbs ≤ Config.maxStepDelta ∧ scan s h1.phase h1.val = some h2 ∧
        w.sampl = h1.cnt + h2.cnt / 2 ∧ w.steps = isqrtFn s w.sampl ∧
        Config.stepsMin ≤ w.steps ∧ w.val1 = h1.val := by
  unfold findWindow at h
  split at h
  · cases h
  rename_i hen
  split at h
  · cases h
  rename_i h1 hs1
  split at h
  · cases h
  rename_i hd
  split at h
  · cases h
  rename_i h2 hs2
  split at h
  · cases h
  rename_i hst
  cases h
  refine ⟨by simpa using fun hp => hen (.inl hp), fun hf => hen (.inr hf), h1, h2, hs1, by omega, hs2,
    rfl, rfl, Nat.not_lt.mp hst, rfl⟩

/-- LOOKAHEAD either leaves the cleared sub-state or activates the window it found (R286). -/
theorem lookahead_cases (s : State) :
    (findWindow s = none ∧ lookahead s = (s.setSidx 0).clear) ∨
      ∃ w, findWindow s = some w ∧ lookahead s = ((s.setSidx 0).clear).activate w := by
  unfold lookahead
  cases findWindow s with
  | none => exact .inl ⟨rfl, rfl⟩
  | some w => exact .inr ⟨w, rfl, rfl⟩

/-- A field that SIDX <- 0, CLEAR and ACTIVATE leave is left by LOOKAHEAD. -/
theorem lookahead_keeps {α : Type} (f : State → α)
    (hc : ∀ s : State, f (s.setSidx 0).clear = f s)
    (ha : ∀ (s : State) (w : Window), f (s.activate w) = f s) (s : State) :
    f (lookahead s) = f s := by
  rcases lookahead_cases s with ⟨-, h⟩ | ⟨w, -, h⟩ <;> rw [h]
  · exact hc s
  · rw [ha, hc]

@[simp] theorem lookahead_freq (s : State) : (lookahead s).freq = s.freq :=
  lookahead_keeps State.freq (fun _ => rfl) (fun _ _ => rfl) s

@[simp] theorem lookahead_phi (s : State) : (lookahead s).phi = s.phi :=
  lookahead_keeps State.phi (fun _ => rfl) (fun _ _ => rfl) s

@[simp] theorem lookahead_att (s : State) : (lookahead s).att = s.att :=
  lookahead_keeps State.att (fun _ => rfl) (fun _ _ => rfl) s

@[simp] theorem lookahead_fault (s : State) : (lookahead s).fault = s.fault :=
  lookahead_keeps State.fault (fun _ => rfl) (fun _ _ => rfl) s

@[simp] theorem lookahead_phi0 (s : State) : (lookahead s).phi0 = s.phi0 :=
  lookahead_keeps State.phi0 (fun _ => rfl) (fun _ _ => rfl) s

@[simp] theorem lookahead_val0 (s : State) : (lookahead s).val0 = s.val0 :=
  lookahead_keeps State.val0 (fun _ => rfl) (fun _ _ => rfl) s

@[simp] theorem lookahead_halted (s : State) : (lookahead s).halted = s.halted :=
  lookahead_keeps State.halted (fun _ => rfl) (fun _ _ => rfl) s

@[simp] theorem lookahead_params (s : State) : (lookahead s).params = s.params :=
  lookahead_keeps State.params (fun _ => rfl) (fun _ _ => rfl) s

@[simp] theorem lookahead_romIsqrt (s : State) : (lookahead s).romIsqrt = s.romIsqrt :=
  lookahead_keeps State.romIsqrt (fun _ => rfl) (fun _ _ => rfl) s

@[simp] theorem lookahead_program (s : State) : (lookahead s).program = s.program :=
  lookahead_keeps State.program (fun _ => rfl) (fun _ _ => rfl) s

@[simp] theorem lookahead_pos (s : State) : (lookahead s).pos = s.pos :=
  lookahead_keeps State.pos (fun _ => rfl) (fun _ _ => rfl) s

@[simp] theorem lookahead_responses (s : State) : (lookahead s).responses = s.responses :=
  lookahead_keeps State.responses (fun _ => rfl) (fun _ _ => rfl) s

@[simp] theorem lookahead_sidx (s : State) : (lookahead s).sidx = 0 := by
  rcases lookahead_cases s with ⟨-, h⟩ | ⟨w, -, h⟩ <;> simp [h]

/-! ## REBUILD and RETIRE -/

@[simp] theorem rebuild_freq (s : State) : (rebuild s).freq = s.freq := by simp [rebuild]

@[simp] theorem rebuild_phi (s : State) : (rebuild s).phi = s.phi := by simp [rebuild]

@[simp] theorem rebuild_att (s : State) : (rebuild s).att = s.att := by simp [rebuild]

@[simp] theorem rebuild_fault (s : State) : (rebuild s).fault = s.fault := by simp [rebuild]

@[simp] theorem rebuild_phi0 (s : State) : (rebuild s).phi0 = s.phi := by simp [rebuild]

@[simp] theorem rebuild_val0 (s : State) : (rebuild s).val0 = bits16 (msineFn s.params s.phi s.att) := by simp [rebuild]

@[simp] theorem rebuild_halted (s : State) : (rebuild s).halted = s.halted := by simp [rebuild]

@[simp] theorem rebuild_params (s : State) : (rebuild s).params = s.params := by simp [rebuild]

@[simp] theorem rebuild_romIsqrt (s : State) : (rebuild s).romIsqrt = s.romIsqrt := by simp [rebuild]

@[simp] theorem rebuild_program (s : State) : (rebuild s).program = s.program := by simp [rebuild]

@[simp] theorem rebuild_pos (s : State) : (rebuild s).pos = s.pos := by simp [rebuild]

@[simp] theorem rebuild_responses (s : State) : (rebuild s).responses = s.responses := by simp [rebuild]

@[simp] theorem rebuild_sidx (s : State) : (rebuild s).sidx = 0 := by simp [rebuild]

@[simp] theorem retire_freq (s : State) : (retire s).freq = s.freq := by simp [retire]

@[simp] theorem retire_phi (s : State) : (retire s).phi = s.phi := by simp [retire]

@[simp] theorem retire_att (s : State) : (retire s).att = s.att := by simp [retire]

@[simp] theorem retire_fault (s : State) : (retire s).fault = s.fault := by simp [retire]

@[simp] theorem retire_phi0 (s : State) : (retire s).phi0 = s.phi1 := by simp [retire]

@[simp] theorem retire_val0 (s : State) : (retire s).val0 = s.val1 := by simp [retire]

@[simp] theorem retire_halted (s : State) : (retire s).halted = s.halted := by simp [retire]

@[simp] theorem retire_params (s : State) : (retire s).params = s.params := by simp [retire]

@[simp] theorem retire_romIsqrt (s : State) : (retire s).romIsqrt = s.romIsqrt := by simp [retire]

@[simp] theorem retire_program (s : State) : (retire s).program = s.program := by simp [retire]

@[simp] theorem retire_pos (s : State) : (retire s).pos = s.pos := by simp [retire]

@[simp] theorem retire_responses (s : State) : (retire s).responses = s.responses := by simp [retire]

@[simp] theorem retire_sidx (s : State) : (retire s).sidx = 0 := by simp [retire]

/-- The lookahead reads FREQ, ATT, PHI0, VAL0, the parameters and ROM_ISQRT, and nothing else of the state it
starts from (R282, R286): two states that agree in these find the same window. -/
theorem findWindow_congr {s t : State} (hf : t.freq = s.freq) (ha : t.att = s.att)
    (hp : t.phi0 = s.phi0) (hv : t.val0 = s.val0) (hq : t.params = s.params)
    (hr : t.romIsqrt = s.romIsqrt) : findWindow t = findWindow s := by
  simp only [findWindow, scan, isqrtFn, hf, ha, hp, hv, hq, hr]
  rfl

/-! ## The advance of STEP -/

@[simp] theorem advance_freq (s : State) : (advance s).freq = s.freq := rfl
@[simp] theorem advance_phi (s : State) : (advance s).phi = s.phi + s.freq := rfl
@[simp] theorem advance_att (s : State) : (advance s).att = s.att := rfl
@[simp] theorem advance_pp (s : State) : (advance s).pp = s.pp := rfl
@[simp] theorem advance_fault (s : State) : (advance s).fault = s.fault := rfl
@[simp] theorem advance_phi0 (s : State) : (advance s).phi0 = s.phi0 := rfl
@[simp] theorem advance_val0 (s : State) : (advance s).val0 = s.val0 := rfl
@[simp] theorem advance_phi1 (s : State) : (advance s).phi1 = s.phi1 := rfl
@[simp] theorem advance_val1 (s : State) : (advance s).val1 = s.val1 := rfl
@[simp] theorem advance_steps (s : State) : (advance s).steps = s.steps := rfl
@[simp] theorem advance_sampl (s : State) : (advance s).sampl = s.sampl := rfl
@[simp] theorem advance_msize (s : State) : (advance s).msize = s.msize := rfl
@[simp] theorem advance_asize (s : State) : (advance s).asize = s.asize := rfl
@[simp] theorem advance_sidx (s : State) : (advance s).sidx = s.sidx + 1 := rfl
@[simp] theorem advance_ridx (s : State) : (advance s).ridx = s.ridx := rfl
@[simp] theorem advance_aidx (s : State) : (advance s).aidx = s.aidx := rfl
@[simp] theorem advance_halted (s : State) : (advance s).halted = s.halted := rfl
@[simp] theorem advance_params (s : State) : (advance s).params = s.params := rfl
@[simp] theorem advance_romIsqrt (s : State) : (advance s).romIsqrt = s.romIsqrt := rfl
@[simp] theorem advance_program (s : State) : (advance s).program = s.program := rfl
@[simp] theorem advance_pos (s : State) : (advance s).pos = s.pos := rfl
@[simp] theorem advance_responses (s : State) : (advance s).responses = s.responses := rfl

/-- A field that RETIRE and REBUILD leave is left by what follows the advance. -/
theorem afterAdvance_keeps {α : Type} (f : State → α) (ht : ∀ s, f (retire s) = f s)
    (hb : ∀ s, f (rebuild s) = f s) (s : State) : f (afterAdvance s) = f s := by
  unfold afterAdvance
  split
  · exact ht s
  · split
    · exact hb s
    · rfl

@[simp] theorem afterAdvance_freq (s : State) : (afterAdvance s).freq = s.freq :=
  afterAdvance_keeps State.freq retire_freq rebuild_freq s

@[simp] theorem afterAdvance_phi (s : State) : (afterAdvance s).phi = s.phi :=
  afterAdvance_keeps State.phi retire_phi rebuild_phi s

@[simp] theorem afterAdvance_att (s : State) : (afterAdvance s).att = s.att :=
  afterAdvance_keeps State.att retire_att rebuild_att s

@[simp] theorem afterAdvance_fault (s : State) : (afterAdvance s).fault = s.fault :=
  afterAdvance_keeps State.fault retire_fault rebuild_fault s

@[simp] theorem afterAdvance_halted (s : State) : (afterAdvance s).halted = s.halted :=
  afterAdvance_keeps State.halted retire_halted rebuild_halted s

@[simp] theorem afterAdvance_params (s : State) : (afterAdvance s).params = s.params :=
  afterAdvance_keeps State.params retire_params rebuild_params s

@[simp] theorem afterAdvance_romIsqrt (s : State) : (afterAdvance s).romIsqrt = s.romIsqrt :=
  afterAdvance_keeps State.romIsqrt retire_romIsqrt rebuild_romIsqrt s

@[simp] theorem afterAdvance_program (s : State) : (afterAdvance s).program = s.program :=
  afterAdvance_keeps State.program retire_program rebuild_program s

@[simp] theorem afterAdvance_pos (s : State) : (afterAdvance s).pos = s.pos :=
  afterAdvance_keeps State.pos retire_pos rebuild_pos s

@[simp] theorem afterAdvance_responses (s : State) : (afterAdvance s).responses = s.responses :=
  afterAdvance_keeps State.responses retire_responses rebuild_responses s

end Sys2Proof.Machine
end

