-- ==== Sys2Proof/Laws/Frames.lean ====
section
/-!
SUPPORT. What the shared endings of a command leave: a response (30_encoding.md R122), an error
(60_exceptions.md R334 to R336), and the fields of every command's next state.
-/
namespace Sys2Proof.Machine

/-- readReg depends on the registers alone: equal fields, equal reads. -/
theorem sameRegs_of_fields {s t : State} (h1 : t.freq = s.freq) (h2 : t.phi = s.phi)
    (h3 : t.att = s.att) (h4 : t.pp = s.pp) (h5 : t.fault = s.fault) (h6 : t.phi0 = s.phi0)
    (h7 : t.val0 = s.val0) (h8 : t.phi1 = s.phi1) (h9 : t.val1 = s.val1) (h10 : t.steps = s.steps)
    (h11 : t.sampl = s.sampl) (h12 : t.msize = s.msize) (h13 : t.asize = s.asize)
    (h14 : t.sidx = s.sidx) (h15 : t.ridx = s.ridx) (h16 : t.aidx = s.aidx)
    (h17 : t.params = s.params) : SameRegs s t := by
  intro r
  cases r <;> simp only [readReg, statusWord, *]

@[simp] theorem readReg_respond (st : Status) (d : RspData) (s : State) (r : Reg) :
    readReg (s.respond st d) r = readReg s r := by
  cases r <;> rfl

/-- A response writes no register, no parameter and no table, and advances the index by one (R49, R122). -/
theorem answered_respond (st : Status) (d : RspData) (s : State) : Answered st d s (s.respond st d) :=
  ⟨rfl, rfl, rfl⟩

theorem readOnly_respond (d : RspData) (s : State) : ReadOnly d s (s.respond .ok d) :=
  ⟨fun r => readReg_respond _ _ _ r, ⟨rfl, rfl, rfl⟩, answered_respond _ _ _⟩

/-- The error path writes STATUS.FAULT and, in HALT mode, HALTED, and nothing else (R334 to R336). -/
theorem failed_raise (e : Err) (s : State) : Failed e.status s (s.raise e) := by
  unfold State.raise
  split
  · rename_i h
    refine ⟨?_, rfl, rfl, ⟨rfl, rfl, rfl⟩, .inl ⟨h, rfl, rfl, rfl⟩⟩
    intro r hr
    cases r <;> first | rfl | simp at hr
  · rename_i h
    refine ⟨?_, rfl, rfl, ⟨rfl, rfl, rfl⟩, .inr ⟨h, rfl, rfl, rfl⟩⟩
    intro r hr
    cases r <;> first | rfl | simp at hr

/-- A field that a response, FAULT and HALTED do not touch is left by the error path. -/
theorem raise_keeps {α : Type} (f : State → α) (hr : ∀ s st d, f (State.respond st d s) = f s)
    (hm : ∀ s : State, f s.markFault = f s) (hh : ∀ s : State, f s.halt = f s) (e : Err) (s : State) :
    f (s.raise e) = f s := by
  unfold State.raise
  split
  · rw [hr, hm]
  · rw [hh, hm]

/-- The two endings of a command that writes no register. -/
theorem finish_cases (r : Except Err RspData) (s : State) :
    (∃ d, r = .ok d ∧ s.finish r = s.respond .ok d) ∨ ∃ e, r = .error e ∧ s.finish r = s.raise e := by
  cases r with
  | ok d => exact .inl ⟨d, rfl, rfl⟩
  | error e => exact .inr ⟨e, rfl, rfl⟩

/-- The two states agree in everything but the registers other than STATUS.FAULT. -/
def SameOutside (s u : State) : Prop :=
  u.fault = s.fault ∧ u.halted = s.halted ∧ u.params = s.params ∧ u.romIsqrt = s.romIsqrt ∧
    u.program = s.program ∧ u.pos = s.pos ∧ u.responses = s.responses

theorem SameOutside.refl (s : State) : SameOutside s s := ⟨rfl, rfl, rfl, rfl, rfl, rfl, rfl⟩

/-- An outcome that is a response OK over register writes, or an error on the state the command found. -/
def Ends (s : State) (o : Host.Outcome State Fault Refusal) : Prop :=
  (∃ (u : State) (d : RspData), o = .next (u.respond .ok d) ∧ SameOutside s u) ∨
    ∃ e, o = .next (s.raise e)

theorem ends_finish (r : Except Err RspData) (s : State) : Ends s (.next (s.finish r)) := by
  rcases finish_cases r s with ⟨d, -, h⟩ | ⟨e, -, h⟩
  · exact .inl ⟨s, d, by rw [h], .refl s⟩
  · exact .inr ⟨e, by rw [h]⟩

/-- The endings of every command. -/
theorem exec_ends (i : Instr) (s : State) : Ends s (exec i s) := by
  cases i with
  | init => exact .inl ⟨_, _, rfl, rfl, rfl, rfl, rfl, rfl, rfl, rfl⟩
  | setf imm =>
    simp only [exec, execSetf]
    split
    · exact .inr ⟨_, rfl⟩
    · exact .inl ⟨_, _, rfl, by simp [SameOutside]⟩
  | setp imm => exact .inl ⟨_, _, rfl, by simp [SameOutside]⟩
  | seta imm => exact .inl ⟨_, _, rfl, by simp [SameOutside]⟩
  | out => exact .inl ⟨s, _, rfl, .refl s⟩
  | step =>
    simp only [exec, execStep]
    split
    · exact .inl ⟨s, _, rfl, .refl s⟩
    · exact .inl ⟨_, _, rfl, by simp [SameOutside]⟩
  | rdreg r => exact .inl ⟨s, _, rfl, .refl s⟩
  | sine phi => exact .inl ⟨s, _, rfl, .refl s⟩
  | msine phi att => exact .inl ⟨s, _, rfl, .refl s⟩
  | fxext d a => exact ends_finish _ _
  | fxshr d a => exact ends_finish _ _
  | fxu2s d a => exact ends_finish _ _
  | fxs2u d a => exact ends_finish _ _
  | isqrt x => exact .inl ⟨s, _, rfl, .refl s⟩

/-- A command word that a block accepts ends as its instruction does, or in EILLEGAL. -/
theorem runCommand_cases {w : CmdWord} {s t : State} (h : runCommand w s = .next t) :
    s.halted = false ∧ ((∃ i, decode w = .ok i ∧ exec i s = .next t) ∨
      ((∃ e, decode w = .error e) ∧ t = s.raise .eillegal)) := by
  unfold runCommand at h
  split at h
  · cases h
  · rename_i hh
    refine ⟨by simpa using hh, ?_⟩
    split at h
    · rename_i i hd; exact .inl ⟨i, hd, h⟩
    · rename_i e hd; cases h; exact .inr ⟨⟨e, hd⟩, rfl⟩

/-- What a step can do: run the word at the index, or wait. -/
theorem step_cases {s t : State} (h : step s = .next t) :
    (∃ w, fetch s = some w ∧ runCommand w s = .next t) ∨ (fetch s = none ∧ s.halted = false ∧ t = s) := by
  unfold step at h
  split at h
  · rename_i hf
    unfold idle at h
    split at h
    · cases h
    · rename_i hh; cases h; exact .inr ⟨hf, by simpa using hh, rfl⟩
  · rename_i w hf; exact .inl ⟨w, hf, h⟩

end Sys2Proof.Machine
end

