-- ==== Sys2Proof/Laws/Isqrt.lean ====
section
/-!
SUPPORT. The isqrt unit (43_smoother.md R290, R291): what the table search and the exact root return.
-/
namespace Sys2Proof.Machine

/-- r is the integer square root of x. -/
abbrev IsRoot (x r : Nat) : Prop := r * r ≤ x ∧ x < (r + 1) * (r + 1)

theorem isqrtRom_get (k : Nat) (h : k < Config.isqrtRom.toList.length) :
    (Config.isqrtRom.toList[k]).toNat = (k + 1) * (k + 1) := by
  have hk : k < 128 := by simpa using h
  have hsq : (k + 1) * (k + 1) ≤ 128 * 128 := Nat.mul_le_mul (by omega) (by omega)
  simp [Config.isqrtRom, pow_two]
  omega

/-- The search of ROM_ISQRT returns the integer square root of every input the table covers (R291). -/
theorem isqrtSearch_root {x : Nat} (hx : x < Config.isqrtLimit) :
    IsRoot x (isqrtSearch Config.isqrtRom x) := by
  have hlen : Config.isqrtRom.toList.length = 128 := by simp
  have hlt : isqrtSearch Config.isqrtRom x < Config.isqrtRom.toList.length := by
    rw [isqrtSearch, List.findIdx_lt_length]
    refine ⟨Config.isqrtRom.toList[127], List.getElem_mem _, ?_⟩
    rw [isqrtRom_get]
    simpa [Config.isqrtLimit] using hx
  constructor
  · by_contra hgt
    have hpos : 0 < isqrtSearch Config.isqrtRom x := by
      rcases Nat.eq_zero_or_pos (isqrtSearch Config.isqrtRom x) with h0 | h0
      · rw [h0] at hgt; omega
      · exact h0
    have hbelow := List.not_of_lt_findIdx (p := fun e : BitVec 15 => decide (x < e.toNat))
      (xs := Config.isqrtRom.toList) (i := isqrtSearch Config.isqrtRom x - 1)
      (show _ < isqrtSearch Config.isqrtRom x by omega)
    rw [isqrtRom_get] at hbelow
    simp only [decide_eq_false_iff_not] at hbelow
    rw [Nat.sub_add_cancel hpos] at hbelow
    omega
  · have hat : decide (x < (Config.isqrtRom.toList[isqrtSearch Config.isqrtRom x]).toNat) = true :=
      List.findIdx_getElem (w := hlt)
    rw [isqrtRom_get] at hat
    simpa using hat

/-- The exact root of a 16-bit input (R290, EXACT). -/
theorem floorSqrt_root {x : Nat} (hx : x < 0x10000) : IsRoot x (floorSqrt x) := by
  have hle : floorSqrt x ≤ 255 := Nat.findGreatest_le _
  refine ⟨Nat.findGreatest_spec (P := fun k => k * k ≤ x) (Nat.zero_le 255) (Nat.zero_le x), ?_⟩
  rcases Nat.lt_or_ge (floorSqrt x) 255 with h | h
  · have := Nat.findGreatest_is_greatest (P := fun k => k * k ≤ x) (n := 255)
      (k := floorSqrt x + 1) (Nat.lt_succ_self _) h
    omega
  · have : floorSqrt x = 255 := by omega
    rw [this]; omega

/-- With ROM_ISQRT intact, the unit's result never overshoots the root and is at most 255 (R290, R292). -/
theorem isqrtFn_le_root {s : State} (hrom : s.romIsqrt = Config.isqrtRom) {x : Nat}
    (hx : x < 0x10000) : isqrtFn s x * isqrtFn s x ≤ x := by
  unfold isqrtFn
  split
  · rw [hrom]; exact (isqrtSearch_root ‹_›).1
  · have : Config.isqrtLimit ≤ x := by omega
    split
    · simp only [Config.isqrtLimit] at this; omega
    · exact (floorSqrt_root hx).1

end Sys2Proof.Machine
end

