-- ==== Sys2Proof/Laws/Trig.lean ====
section
/-!
SUPPORT. The trigonometric engine (41_trig.md R200 to R207) as plain arithmetic, and the ranges of its values.
-/
namespace Sys2Proof.Machine

theorem mul16_eq (a b : Nat) : mul16 a b = a * b / 0x10000 := Nat.shiftRight_eq_div_pow _ _

theorem lutIndex_eq (f : Nat) : lutIndex f = f / 64 := Nat.shiftRight_eq_div_pow _ _

theorem lutRem_eq (f : Nat) : lutRem f = f % 64 := Nat.and_two_pow_sub_one_eq_mod f 6

theorem lutCoef_eq (f : Nat) : lutCoef f = f % 64 * 1024 := by
  rw [lutCoef, lutRem_eq, Nat.shiftLeft_eq]

/-- What FOLD does, quadrant by quadrant (41_trig.md R200). -/
theorem fold_cases (phi : Word) :
    (phi.toNat < 0x4000 ∧ fold phi = ⟨phi.toNat, false⟩) ∨
      (0x4000 ≤ phi.toNat ∧ phi.toNat < 0x8000 ∧ fold phi = ⟨0x8000 - phi.toNat, false⟩) ∨
      (0x8000 ≤ phi.toNat ∧ phi.toNat < 0xC000 ∧ fold phi = ⟨phi.toNat - 0x8000, true⟩) ∨
      (0xC000 ≤ phi.toNat ∧ fold phi = ⟨0x10000 - phi.toNat, true⟩) := by
  have hlt := phi.isLt
  have hq : phi.toNat >>> 14 = phi.toNat / 0x4000 := Nat.shiftRight_eq_div_pow _ _
  unfold fold
  rw [hq]
  split
  · exact .inl ⟨by omega, rfl⟩
  · exact .inr (.inl ⟨by omega, by omega, rfl⟩)
  · exact .inr (.inr (.inl ⟨by omega, by omega, rfl⟩))
  · rename_i h0 h1 h2
    have h0 : phi.toNat / 0x4000 ≠ 0 := h0
    have h1 : phi.toNat / 0x4000 ≠ 1 := h1
    have h2 : phi.toNat / 0x4000 ≠ 2 := h2
    exact .inr (.inr (.inr ⟨by omega, rfl⟩))

@[simp] theorem sineFn_quarter (p : Params) : sineFn p 0x4000 = ⟨0x10000, false⟩ := rfl

@[simp] theorem sineFn_three_quarters (p : Params) : sineFn p 0xC000 = ⟨0x10000, true⟩ := rfl

/-- Away from the singular phases the sine is the interpolated magnitude with the fold's sign (R205). -/
theorem sineFn_folded (p : Params) {phi : Word} (h1 : phi ≠ 0x4000) (h2 : phi ≠ 0xC000) :
    sineFn p phi = ⟨interp p (fold phi).mag, (fold phi).neg⟩ := by
  simp only [sineFn, if_neg h1, if_neg h2]

theorem sineEntry_le (p : Params) (i : Nat) : sineEntry p i ≤ 0xFFFF := by
  have := (p.sineLut.get (Fin.ofNat 256 i)).isLt
  simp only [sineEntry]; omega

theorem nextKnot_le (p : Params) (i : Nat) : nextKnot p i ≤ 0x10000 := by
  unfold nextKnot
  split
  · have := sineEntry_le p (i + 1); omega
  · have := p.lutTop.isLt; omega

/-- INTERP stays below 1.0 on every legal table (R204). -/
theorem interp_le (p : Params) (f : Nat) : interp p f ≤ 0xFFFF := by
  unfold interp
  split
  · exact sineEntry_le _ _
  · rw [mul16_eq, mul16_eq, lutCoef_eq]
    have hc : f % 64 * 1024 ≤ 0x10000 := by omega
    have h1 : sineEntry p (lutIndex f) * (0x10000 - f % 64 * 1024) ≤
        0xFFFF * (0x10000 - f % 64 * 1024) := Nat.mul_le_mul_right _ (sineEntry_le _ _)
    have h2 : nextKnot p (lutIndex f) * (f % 64 * 1024) ≤ 0x10000 * (f % 64 * 1024) :=
      Nat.mul_le_mul_right _ (nextKnot_le _ _)
    have h3 : f % 64 * 1024 < 0x10000 := by omega
    generalize sineEntry p (lutIndex f) * (0x10000 - f % 64 * 1024) = x at *
    generalize nextKnot p (lutIndex f) * (f % 64 * 1024) = y at *
    omega

/-- The magnitude is 1.0 at the singular phases and below it elsewhere (R201, R205). -/
theorem sineFn_mag_cases (p : Params) (phi : Word) :
    ((phi = 0x4000 ∨ phi = 0xC000) ∧ (sineFn p phi).mag = 0x10000) ∨
      (phi ≠ 0x4000 ∧ phi ≠ 0xC000 ∧ (sineFn p phi).mag ≤ 0xFFFF) := by
  unfold sineFn
  split
  · exact .inl ⟨.inl ‹_›, rfl⟩
  · split
    · exact .inl ⟨.inr ‹_›, rfl⟩
    · exact .inr ⟨‹_›, ‹_›, interp_le _ _⟩

theorem attFactor_bounds (att : Word) : 1 ≤ attFactor att ∧ attFactor att ≤ 0x10000 := by
  have := att.isLt
  simp only [attFactor]; omega

/-- The scaled magnitude is at most the magnitude (R206). -/
theorem scaledMag_le_mag (p : Params) (phi att : Word) : scaledMag p phi att ≤ (sineFn p phi).mag := by
  have h := Nat.mul_le_mul_left (sineFn p phi).mag (attFactor_bounds att).2
  rw [scaledMag, mul16_eq]
  omega

theorem scaledMag_le (p : Params) (phi att : Word) : scaledMag p phi att ≤ 0x10000 := by
  have h := scaledMag_le_mag p phi att
  rcases sineFn_mag_cases p phi with ⟨-, hm⟩ | ⟨-, -, hm⟩ <;> omega

/-- Rounding a magnitude below 1.0 stays at or below the positive rail (R207). -/
theorem roundMag_eq {q : Nat} (h : q ≤ 0xFFFF) : roundMag q = min ((q + 1) / 2) 0x7FFF := by
  unfold roundMag
  rw [Nat.shiftRight_eq_div_pow]
  split <;> omega

theorem msineFn_range (p : Params) (phi att : Word) :
    -0x8000 ≤ msineFn p phi att ∧ msineFn p phi att ≤ 0x7FFF := by
  have hs := scaledMag_le p phi att
  unfold msineFn
  split
  · split <;> omega
  · have hr := roundMag_eq (q := scaledMag p phi att) (by omega)
    unfold applySign
    split <;> omega

/-- A 16-bit pattern gives back the value it was made from (00_scope.md R14). -/
theorem toInt_bits16 {v : Int} (h : -0x8000 ≤ v ∧ v ≤ 0x7FFF) : (bits16 v).toInt = v := by
  rw [bits16, BitVec.toInt_ofInt]
  exact Int.bmod_eq_of_le (by omega) (by omega)

@[simp] theorem toInt_bits16_msineFn (p : Params) (phi att : Word) :
    (bits16 (msineFn p phi att)).toInt = msineFn p phi att := toInt_bits16 (msineFn_range p phi att)

end Sys2Proof.Machine
end

