-- ==== Sys2Proof/Laws/Lookahead.lean ====
section
/-!
SUPPORT. The lookahead against its relational description (Safety.lean): it activates exactly the window of two
first changes, and leaves the cleared sub-state where there is none (43_smoother.md R286).
-/
namespace Sys2Proof.Machine

theorem phaseAfter_eq_phaseFrom (s : State) (p : Word) (j : Nat) :
    phaseAfter p s.freq j = phaseFrom s p j := rfl

/-- A transition is unique: the first change has one index. -/
theorem Transition.unique {s : State} {p : Word} {v : Int} {n m : Nat} (h : Transition s p v n)
    (h' : Transition s p v m) : n = m := by
  rcases Nat.lt_trichotomy n m with hl | he | hl
  · exact absurd (h'.first n h.pos hl) h.change
  · exact he
  · exact absurd (h.first m h'.pos hl) h'.change

theorem scan_some_transition {s : State} {p : Word} {v : Int} {h : ScanHit} (hs : scan s p v = some h) :
    Transition s p v h.cnt ∧ h.phase = phaseFrom s p h.cnt ∧ h.val = directAt s (phaseFrom s p h.cnt) := by
  obtain ⟨n, h1, h2, h3, h4, h5, h6, h7, h8⟩ := scanLoop_found hs
  have hn : h.cnt = n := by omega
  subst hn
  have hp : h.phase = phaseFrom s p h.cnt := h5
  refine ⟨⟨h1, h2, h4, ?_, h8⟩, hp, ?_⟩
  · rw [← hp, show directAt s h.phase = h.val from h6.symm]; exact h7
  · rw [← hp]; exact h6

/-- A scan that some transition exists for finds it. -/
theorem scan_of_transition {s : State} {p : Word} {v : Int} {n : Nat} (h : Transition s p v n) :
    scan s p v = some ⟨phaseFrom s p n, directAt s (phaseFrom s p n), n⟩ := by
  cases hs : scan s p v with
  | none =>
    have := scanLoop_exhausted hs n h.pos h.step_bound (by simpa using h.phase_bound)
    exact absurd this h.change
  | some k =>
    obtain ⟨ht, hp, hv⟩ := scan_some_transition hs
    have : k.cnt = n := ht.unique h
    cases k
    simp_all

/-- The window found is the one its two counts describe. -/
theorem findWindow_iff {s : State} {w : Window} :
    findWindow s = some w ↔ ∃ n1 n2, WindowAt s n1 n2 ∧
      w = ⟨n1 + n2 / 2, isqrtFn s (n1 + n2 / 2), newValue s n1⟩ := by
  constructor
  · intro h
    obtain ⟨he, hf, h1, h2, hs1, hd, hs2, hw1, hw2, hw3, hw4⟩ := findWindow_some h
    obtain ⟨ht1, hp1, hv1⟩ := scan_some_transition hs1
    obtain ⟨ht2, -, -⟩ := scan_some_transition hs2
    have hnv : h1.val = newValue s h1.cnt := hv1
    refine ⟨h1.cnt, h2.cnt, ⟨he, hf, ht1, by rw [← hnv]; exact hd, ?_, by rw [← hw1, ← hw2]; exact hw3⟩, ?_⟩
    · rw [← hnv, windowPhase, ← hp1]; exact ht2
    · cases w; simp_all
  · rintro ⟨n1, n2, h, rfl⟩
    have h1 := scan_of_transition h.first
    have h2 := scan_of_transition h.second
    have hd := h.one_quantum
    have ht := h.tiles
    have hw : windowPhase s n1 = phaseFrom s s.phi0 n1 := rfl
    rw [hw, newValue, hw] at h2
    rw [newValue, hw] at hd
    unfold findWindow
    rw [if_neg (fun hx => hx.elim (by simp [h.enabled]) h.moving), h1]
    simp only [newValue, hw]
    rw [if_neg (by omega), h2]
    simp only
    rw [if_neg (by omega)]

theorem findWindow_none_iff {s : State} : findWindow s = none ↔ ∀ n1 n2, ¬ WindowAt s n1 n2 := by
  rw [Option.eq_none_iff_forall_ne_some]
  constructor
  · intro h n1 n2 hw; exact h _ (findWindow_iff.mpr ⟨n1, n2, hw, rfl⟩)
  · intro h w hw; obtain ⟨n1, n2, hat, -⟩ := findWindow_iff.mp hw; exact h n1 n2 hat

/-- The isqrt unit's result fits a byte and a bit whatever ROM_ISQRT holds. -/
theorem isqrtFn_le (s : State) (x : Nat) : isqrtFn s x ≤ 255 := by
  unfold isqrtFn
  split
  · have := List.findIdx_le_length (xs := s.romIsqrt.toList) (p := fun e => decide (x < e.toNat))
    simp only [Vector.length_toList] at this
    simp only [isqrtSearch]; omega
  · split
    · omega
    · exact Nat.findGreatest_le _

/-- The length of a window (R289). -/
theorem WindowAt.sampl_le {s : State} {n1 n2 : Nat} (h : WindowAt s n1 n2) :
    1 ≤ n1 + n2 / 2 ∧ n1 + n2 / 2 ≤ 0x6000 ∧ (n1 + n2 / 2) * s.freq.toNat ≤ 0x6000 := by
  have h1 := h.first.phase_bound
  have h2 := h.second.phase_bound
  have h3 := h.first.step_bound
  have h4 := h.second.step_bound
  have h5 := h.first.pos
  simp only [Config.scanPhaseBound, Config.scanStepBound] at *
  refine ⟨by omega, by omega, ?_⟩
  have hd : n2 / 2 * 2 ≤ n2 := Nat.div_mul_le_self n2 2
  have hm : n2 / 2 * 2 * s.freq.toNat ≤ n2 * s.freq.toNat := Nat.mul_le_mul_right _ hd
  have he : n2 / 2 * 2 * s.freq.toNat = 2 * (n2 / 2 * s.freq.toNat) := by ring
  rw [Nat.add_mul]
  omega

/-- WindowAt depends on what the lookahead reads, and on nothing else. -/
theorem WindowAt.congr {s t : State} {n1 n2 : Nat} (h : WindowAt s n1 n2) (hf : t.freq = s.freq)
    (ha : t.att = s.att) (hp : t.phi0 = s.phi0) (hv : t.val0 = s.val0) (hq : t.params = s.params)
    (hr : t.romIsqrt = s.romIsqrt) : WindowAt t n1 n2 := by
  obtain ⟨n, m, hw, he⟩ := findWindow_iff.mp
    ((findWindow_congr hf ha hp hv hq hr).trans (findWindow_iff.mpr ⟨n1, n2, h, rfl⟩))
  have hd : ∀ q, directAt t q = directAt s q := fun q => by simp only [directAt, hq, ha]
  have hph : ∀ q j, phaseFrom t q j = phaseFrom s q j := fun q j => by simp only [phaseFrom, hf]
  have hT : ∀ {q v n}, Transition t q v n ↔ Transition s q v n := by
    intro q v n
    constructor <;> rintro ⟨a, b, c, d, e⟩ <;> refine ⟨a, b, ?_, ?_, ?_⟩ <;> simp_all
  have hwp : ∀ j, windowPhase t j = windowPhase s j := fun j => by simp only [windowPhase, hph, hp]
  have hnv : ∀ j, newValue t j = newValue s j := fun j => by simp only [newValue, hd, hwp]
  have h1 : Transition s s.phi0 s.val0.toInt n := by
    have := hT.mp hw.first
    rwa [hp, hv] at this
  have hn : n = n1 := h1.unique h.first
  subst hn
  have h2 : Transition s (windowPhase s n) (newValue s n) m := by
    have := hT.mp hw.second
    rwa [hwp, hnv] at this
  have hm : m = n2 := h2.unique h.second
  subst hm
  exact hw

/-- The schedule registers of an activated window. -/
theorem scheduleOf_activate {s : State} {n1 n2 : Nat} (h : WindowAt s n1 n2) (t : State)
    (hf : t.freq = s.freq) (ha : t.att = s.att) (hp : t.phi0 = s.phi0) (hq : t.params = s.params)
    (hr : t.romIsqrt = s.romIsqrt) :
    ScheduleOf (t.activate ⟨n1 + n2 / 2, isqrtFn s (n1 + n2 / 2), newValue s n1⟩) n1 n2 := by
  obtain ⟨hs1, hs2, hs3⟩ := h.sampl_le
  have hst := isqrtFn_le s (n1 + n2 / 2)
  have hm : (n1 + n2 / 2) / isqrtFn s (n1 + n2 / 2) ≤ n1 + n2 / 2 := Nat.div_le_self _ _
  have hmul : isqrtFn s (n1 + n2 / 2) * ((n1 + n2 / 2) / isqrtFn s (n1 + n2 / 2)) +
      (n1 + n2 / 2) % isqrtFn s (n1 + n2 / 2) = n1 + n2 / 2 := Nat.div_add_mod _ _
  have hrem : (n1 + n2 / 2) % isqrtFn s (n1 + n2 / 2) ≤ n1 + n2 / 2 := Nat.mod_le _ _
  have hsub : (isqrtFn s (n1 + n2 / 2) - 1) * ((n1 + n2 / 2) / isqrtFn s (n1 + n2 / 2)) ≤
      isqrtFn s (n1 + n2 / 2) * ((n1 + n2 / 2) / isqrtFn s (n1 + n2 / 2)) :=
    Nat.mul_le_mul_right _ (by omega)
  have hmod : ∀ k, k ≤ n1 + n2 / 2 → k % 0x10000 = k := fun k hk => Nat.mod_eq_of_lt (by omega)
  have hiq : ∀ x, isqrtFn (t.activate ⟨n1 + n2 / 2, isqrtFn s (n1 + n2 / 2), newValue s n1⟩) x =
      isqrtFn s x := fun x => by simp only [isqrtFn, State.activate_params, State.activate_romIsqrt, hq, hr]
  constructor
  · rfl
  · simp [hmod]
  · rw [hiq]; simp [hmod]; omega
  · simp [windowPhase, phaseFrom, hmod]
  · simp [newValue, directAt, windowPhase, phaseFrom, hf, ha, hp, hq]
  · simp only [State.activate_msize, State.activate_sampl, State.activate_steps, BitVec.toNat_ofNat]
    rw [hmod _ le_rfl, Nat.mod_eq_of_lt (a := isqrtFn s _) (by omega), hmod _ hm]
  · simp only [State.activate_asize, State.activate_sampl, State.activate_steps, BitVec.toNat_ofNat]
    rw [hmod _ le_rfl, Nat.mod_eq_of_lt (a := isqrtFn s _) (by omega), hmod _ hrem]
  · simp only [State.activate_aidx, State.activate_msize, State.activate_steps, BitVec.toNat_ofNat]
    rw [Nat.mod_eq_of_lt (a := isqrtFn s _) (by omega), hmod _ hm, hmod _ (by omega)]
  · simp only [State.activate_ridx, State.activate_aidx, State.activate_asize, BitVec.toNat_ofNat]
    rw [hmod _ hrem, hmod _ (by omega), hmod _ (by omega)]

/-- LOOKAHEAD does what its relational description says (R286). -/
theorem lookahead_outcome (s : State) : LookaheadOutcome (lookahead s) := by
  refine ⟨by simp, ?_⟩
  rcases lookahead_cases s with ⟨hn, h⟩ | ⟨w, hw, h⟩
  · refine .inr ⟨?_, by simp [h], by constructor <;> simp [h]⟩
    intro n1 n2 hat
    exact findWindow_none_iff.mp hn n1 n2
      (hat.congr (by simp) (by simp) (by simp) (by simp) (by simp) (by simp))
  · obtain ⟨n1, n2, hat, rfl⟩ := findWindow_iff.mp hw
    refine .inl ⟨n1, n2, hat.congr (by simp) (by simp) (by simp) (by simp) (by simp) (by simp), ?_⟩
    rw [h]
    exact scheduleOf_activate hat _ rfl rfl rfl rfl rfl

end Sys2Proof.Machine
end

