-- ==== Sys2Proof/Laws/PerInstr.lean ====
section
/-!
SUPPORT. One family of statements about the instruction as syntax, one lemma per constructor: RowMatch, the word of
an instruction matches the row of spec/opcode_table.json that its mnemonic names (30_encoding.md R121).
-/
namespace Sys2Proof.Laws.RowMatch

/-- The word's masked bits are the row's, for the table's row of that mnemonic. -/
def Statement (i : Instr) : Prop :=
  ∃ r ∈ opcodeTable, r.mnemonic = i.mnemonic ∧ encode i &&& r.mask = r.value

/-- The masked bits of a word of each format: the opcode alone. -/
theorem encodeU16_masked (o : BitVec 4) (x : Word) :
    encodeU16 o x &&& 0xFFFFFFFFFFFF0000 = encodeN o := by
  rw [matches_u16 (by revert o; decide), encodeU16_field_60, encodeU16_field_16, encodeN_opc]
  exact ⟨rfl, by revert o; decide⟩

theorem encodeAB_masked (o : BitVec 4) (x y : Word) :
    encodeAB o x y &&& 0xFFFF0000FFFF0000 = encodeN o := by
  rw [matches_ab (by revert o; decide), encodeAB_field_60, encodeAB_field_48, encodeAB_field_16, encodeN_opc]
  exact ⟨rfl, by revert o; decide, by revert o; decide⟩

theorem encodeR_masked (o : BitVec 4) (r : Reg) :
    encodeR o r &&& 0xFFFFFFF0FFFFFFFF = encodeN o := by
  rw [matches_r (by revert o; decide), encodeR_field_60, encodeR_field_36, encodeR_field_0, encodeN_opc]
  exact ⟨rfl, by revert o; decide, by revert o; decide⟩

theorem encodeFX_masked (o : BitVec 4) (d : FxDesc) (a : BitVec 32) :
    encodeFX o d a &&& 0xF00000FF00000000 = encodeN o := by
  rw [matches_fx (by revert o; decide), encodeFX_field_60, encodeFX_field_32, encodeN_opc]
  exact ⟨rfl, by revert o; decide⟩

theorem init : Statement .init := ⟨opcodeTable[0], by decide, rfl, by decide⟩

theorem setf (imm : Word) : Statement (.setf imm) := ⟨opcodeTable[1], by decide, rfl, encodeU16_masked _ _⟩

theorem setp (imm : Word) : Statement (.setp imm) := ⟨opcodeTable[2], by decide, rfl, encodeU16_masked _ _⟩

theorem seta (imm : Word) : Statement (.seta imm) := ⟨opcodeTable[3], by decide, rfl, encodeU16_masked _ _⟩

theorem out : Statement .out := ⟨opcodeTable[4], by decide, rfl, by decide⟩

theorem step : Statement .step := ⟨opcodeTable[5], by decide, rfl, by decide⟩

theorem rdreg (r : Reg) : Statement (.rdreg r) := ⟨opcodeTable[6], by decide, rfl, encodeR_masked _ _⟩

theorem sine (phi : Word) : Statement (.sine phi) := ⟨opcodeTable[7], by decide, rfl, encodeU16_masked _ _⟩

theorem msine (phi att : Word) : Statement (.msine phi att) :=
  ⟨opcodeTable[8], by decide, rfl, encodeAB_masked _ _ _⟩

theorem fxext (d : FxDesc) (a : BitVec 32) : Statement (.fxext d a) :=
  ⟨opcodeTable[9], by decide, rfl, encodeFX_masked _ _ _⟩

theorem fxshr (d : FxDesc) (a : BitVec 32) : Statement (.fxshr d a) :=
  ⟨opcodeTable[10], by decide, rfl, encodeFX_masked _ _ _⟩

theorem fxu2s (d : FxDesc) (a : BitVec 32) : Statement (.fxu2s d a) :=
  ⟨opcodeTable[11], by decide, rfl, encodeFX_masked _ _ _⟩

theorem fxs2u (d : FxDesc) (a : BitVec 32) : Statement (.fxs2u d a) :=
  ⟨opcodeTable[12], by decide, rfl, encodeFX_masked _ _ _⟩

theorem isqrt (x : Word) : Statement (.isqrt x) := ⟨opcodeTable[13], by decide, rfl, encodeU16_masked _ _⟩

end Sys2Proof.Laws.RowMatch
end

