-- ==== Sys2Proof/Laws/Ports.lean ====
section
/-!
SUPPORT. One clock edge of the block by what it is doing (70_reset_and_hazards.md R370, R381, R382): one lemma a case.
-/
namespace Sys2Proof.Machine

variable {lat : Latency} {st : State} {i : PortIn}

theorem tick_reset (c : Clocked) (h : i.rstN = false) : c.tick lat i = ⟨c.st.assertReset, .idle⟩ := by
  simp [Clocked.tick, h]

theorem tick_idle_not_offered (h : i.rstN = true) (hv : i.cmdValid = false) :
    Clocked.tick lat ⟨st, .idle⟩ i = ⟨st, .idle⟩ := by
  simp [Clocked.tick, h, hv]

theorem tick_idle_accepts (h : i.rstN = true) (hv : i.cmdValid = true) (hs : st.halted = false) :
    Clocked.tick lat ⟨st, .idle⟩ i = continueCommand i.cmdWord st (lat i.cmdWord st) := by
  simp [Clocked.tick, h, hv, hs]

theorem tick_executing (w : CmdWord) (left : Nat) (h : i.rstN = true) :
    Clocked.tick lat ⟨st, .executing w left⟩ i = continueCommand w st left := by
  simp [Clocked.tick, h]

theorem tick_response_taken (r : Response) (h : i.rstN = true) (hr : i.rspReady = true) :
    Clocked.tick lat ⟨st, .responding r⟩ i = ⟨st, .idle⟩ := by
  simp [Clocked.tick, h, hr]

theorem tick_response_held (r : Response) (h : i.rstN = true) (hr : i.rspReady = false) :
    Clocked.tick lat ⟨st, .responding r⟩ i = ⟨st, .responding r⟩ := by
  simp [Clocked.tick, h, hr]

end Sys2Proof.Machine
end

