-- ==== Sys2Proof/Tests/Slice0.lean ====
section
/-!
SUPPORT. The model's own tests: the checks of WellFormed refusing an ill-formed term each; words written from
30_encoding.md R110 to R117 (most stand in R127 or 95_test_vectors.md); one step of each command with the values of
95_test_vectors.md; and, for every statement with hypotheses, a witness that meets them.
-/
namespace Sys2Proof.Tests

-- The tests are checked one after another: checked side by side they ask for a thread each.
set_option Elab.async false
open Sys2Proof.Machine

/-! ## Helpers -/

/-- The parameters with HALT mode (60_exceptions.md R336). -/
def haltMode : Params := { Params.default with precond := .halt }

/-- The registers of 95_test_vectors.md P3 after its line 3: FREQ 1, ATT 0xF000, the window of five samples. -/
def window : State :=
  { State.reset with
    freq := 1, att := 0xF000, pp := true, phi1 := 5, val1 := 1, steps := 2, sampl := 5, msize := 2,
    asize := 1, ridx := 3, aidx := 2 }

/-- P3 before its STEP number 4: the window's last sample. -/
def windowEnd : State := { window with phi := 4, sidx := 4 }

/-- The status and data of the last response. -/
def lastResponse (o : Host.Outcome State Fault Refusal) : Option Response :=
  match o with
  | .next t => t.responses.getLast?
  | .fault _ => none
  | .refused _ => none

/-- The sixteen registers after a step, if there is a next state. -/
def regsOf (o : Host.Outcome State Fault Refusal) : Option (List Word) :=
  match o with
  | .next t => some ((List.range 16).map fun k => readReg t (Reg.ofIndex (BitVec.ofNat 4 k)))
  | .fault _ => none
  | .refused _ => none

/-- HALTED, the index and the number of responses after a step. -/
def progress (o : Host.Outcome State Fault Refusal) : Option (Bool × Nat × Nat) :=
  match o with
  | .next t => some (t.halted, t.pos, t.responses.length)
  | .fault _ => none
  | .refused _ => none

/-- The response of one command word on a state. -/
def answer (s : State) (w : CmdWord) : Option Response := lastResponse (runCommand w s)

/-- A register after one command word. -/
def regAfter (s : State) (w : CmdWord) (r : Reg) : Option Word :=
  match runCommand w s with
  | .next t => some (readReg t r)
  | .fault _ => none
  | .refused _ => none

/-- SQ0.21/C32 -> SQ0.15/C16 (R127). -/
def shrink21 : FxDesc := ⟨true, 0, 21, 15, .c32, .c16⟩
/-- SQ0.15/C16 -> SQ0.21/C32 (R127). -/
def extend15 : FxDesc := ⟨true, 0, 15, 21, .c16, .c32⟩
/-- UQ0.16/C16 -> SQ0.15/C16 (R127). -/
def insertSign : FxDesc := ⟨false, 0, 16, 0, .c16, .c16⟩
/-- SQ0.15/C16 -> UQ0.16/C16 (R127). -/
def removeSign : FxDesc := ⟨true, 0, 15, 0, .c16, .c16⟩

/-! ## WellFormed: one ill-formed term for each check (30_encoding.md R116, R119; 40_fixedpoint.md R161 to R166) -/

theorem test_wf_accepts : (Instr.fxext extend15 0x8000).wellFormed = true ∧
    (Instr.fxshr shrink21 0xFFE00000).wellFormed = true ∧ (Instr.fxu2s insertSign 0xFFFF).wellFormed = true ∧
    (Instr.fxs2u removeSign 0x7FFF).wellFormed = true := by decide

/-- FXEXT: nd < ns; wS = 0; wS > C_S; wD > C_D. -/
theorem test_wf_fxext_refuses :
    (Instr.fxext ⟨true, 0, 15, 14, .c16, .c32⟩ 0).wellFormed = false ∧
    (Instr.fxext ⟨false, 0, 0, 8, .c16, .c32⟩ 0).wellFormed = false ∧
    (Instr.fxext ⟨false, 0, 16, 22, .c8, .c32⟩ 1).wellFormed = false ∧
    (Instr.fxext ⟨false, 0, 16, 23, .c16, .c22⟩ 1).wellFormed = false := by decide

/-- FXSHR: nd > ns; wS > C_S; wD = 0; wD > C_D. -/
theorem test_wf_fxshr_refuses :
    (Instr.fxshr ⟨true, 0, 15, 16, .c16, .c32⟩ 0).wellFormed = false ∧
    (Instr.fxshr ⟨true, 0, 16, 15, .c16, .c32⟩ 0).wellFormed = false ∧
    (Instr.fxshr ⟨false, 0, 8, 0, .c16, .c32⟩ 0).wellFormed = false ∧
    (Instr.fxshr ⟨true, 0, 21, 15, .c32, .c8⟩ 0).wellFormed = false := by decide

/-- FXU2S: signed; ND set; ns = 0; w > C_S; w > C_D. -/
theorem test_wf_fxu2s_refuses :
    (Instr.fxu2s ⟨true, 0, 16, 0, .c32, .c32⟩ 0).wellFormed = false ∧
    (Instr.fxu2s ⟨false, 0, 16, 1, .c16, .c16⟩ 0).wellFormed = false ∧
    (Instr.fxu2s ⟨false, 8, 0, 0, .c16, .c16⟩ 0).wellFormed = false ∧
    (Instr.fxu2s ⟨false, 1, 16, 0, .c16, .c32⟩ 0).wellFormed = false ∧
    (Instr.fxu2s ⟨false, 1, 16, 0, .c32, .c16⟩ 0).wellFormed = false := by decide

/-- FXS2U: unsigned; ND set; w > C_S; w > C_D. -/
theorem test_wf_fxs2u_refuses :
    (Instr.fxs2u ⟨false, 0, 16, 0, .c32, .c32⟩ 0).wellFormed = false ∧
    (Instr.fxs2u ⟨true, 0, 15, 1, .c16, .c16⟩ 0).wellFormed = false ∧
    (Instr.fxs2u ⟨true, 0, 16, 0, .c16, .c32⟩ 0).wellFormed = false ∧
    (Instr.fxs2u ⟨true, 0, 16, 0, .c32, .c16⟩ 0).wellFormed = false := by decide

/-- A32 bits at or above C_S, in each of the four commands. -/
theorem test_wf_operand_refuses :
    (Instr.fxext extend15 0x18000).wellFormed = false ∧
    (Instr.fxshr ⟨true, 0, 21, 15, .c22, .c16⟩ 0x400000).wellFormed = false ∧
    (Instr.fxu2s insertSign 0x10000).wellFormed = false ∧
    (Instr.fxs2u removeSign 0x10000).wellFormed = false := by decide

/-! ## Decoding: a word of every row, bit by bit from its format (R112 to R117, R127) -/

/-- OPC, then 60 zeros (R112). -/
theorem test_decode_n :
    decode (0b0001#4 ++ 0#60) = .ok .init ∧ decode (0b0101#4 ++ 0#60) = .ok .out ∧
    decode (0b0110#4 ++ 0#60) = .ok .step := by decide

/-- OPC, 44 zeros, IMM16 (R113). -/
theorem test_decode_u16 :
    decode (0b0010#4 ++ 0#44 ++ 0x0004#16) = .ok (.setf 4) ∧
    decode (0b0011#4 ++ 0#44 ++ 0xC000#16) = .ok (.setp 0xC000) ∧
    decode (0b0100#4 ++ 0#44 ++ 0xFFF8#16) = .ok (.seta 65528) ∧
    decode (0b1000#4 ++ 0#44 ++ 0x1000#16) = .ok (.sine 0x1000) ∧
    decode (0b1110#4 ++ 0#44 ++ 0x3FFF#16) = .ok (.isqrt 0x3FFF) := by decide

/-- OPC, 12 zeros, B16, 16 zeros, A16 (R114). -/
theorem test_decode_ab :
    decode (0b1001#4 ++ 0#12 ++ 0x8001#16 ++ 0#16 ++ 0x4002#16) = .ok (.msine 0x4002 0x8001) := by decide

/-- OPC, 24 zeros, REG, 32 zeros (R115); the indices of 10_state.md R31. -/
theorem test_decode_r :
    decode (0b0111#4 ++ 0#24 ++ 0b0000#4 ++ 0#32) = .ok (.rdreg .freq) ∧
    decode (0b0111#4 ++ 0#24 ++ 0b0101#4 ++ 0#32) = .ok (.rdreg .val0) ∧
    decode (0b0111#4 ++ 0#24 ++ 0b1101#4 ++ 0#32) = .ok (.rdreg .ridx) ∧
    decode (0b0111#4 ++ 0#24 ++ 0b1110#4 ++ 0#32) = .ok (.rdreg .aidx) ∧
    decode (0b0111#4 ++ 0#24 ++ 0b1111#4 ++ 0#32) = .ok (.rdreg .cfg) := by decide

/-- OPC, S, M, NS, ND, CS, CD, 8 zeros, A32 (R116, R117). -/
theorem test_decode_fx :
    decode (0b1010#4 ++ 0b1#1 ++ 0b00001#5 ++ 0b00010#5 ++ 0b00011#5 ++ 0b00#2 ++ 0b01#2 ++ 0#8 ++ 0xA5#32) =
      .ok (.fxext ⟨true, 1, 2, 3, .c8, .c16⟩ 0xA5) ∧
    decode (0b1011#4 ++ 0b0#1 ++ 0b11111#5 ++ 0b00010#5 ++ 0b00001#5 ++ 0b10#2 ++ 0b11#2 ++ 0#8 ++
      0x80000000#32) = .ok (.fxshr ⟨false, 31, 2, 1, .c22, .c32⟩ 0x80000000) := by decide

/-- The FX words of R127 and 95_test_vectors.md L2.1. -/
theorem test_decode_fx_examples :
    decode 0xA81F570000008000 = .ok (.fxext extend15 0x8000) ∧
    decode 0xB82AFD00FFE00000 = .ok (.fxshr shrink21 0xFFE00000) ∧
    decode 0xC02005000000FFFF = .ok (.fxu2s insertSign 0xFFFF) ∧
    decode 0xD81E050000007FFF = .ok (.fxs2u removeSign 0x7FFF) := by decide

/-- Every line of R127, in any case of letters. -/
theorem test_assemble : assemble
    ["INIT", "SETF 4", "setp 0x4000", "SETA 65528", "OUT", "Step", "RDREG phi", "SINE 0x1000",
      "MSINE 0x4000, 0x8000", "FXEXT UQ0.16/C16 -> UQ0.22/C32, 0xFFFF",
      "FXEXT SQ0.15/C16 -> SQ0.21/C32, 0x8000", "FXSHR SQ0.21/C32 -> SQ0.15/C16, 0xFFE00000",
      "FXSHR SQ0.21/C22 -> SQ0.15/C16, 0x200000", "FXU2S UQ0.16/C16 -> SQ0.15/C16, 0xFFFF",
      "FXS2U SQ0.15/C16 -> UQ0.16/C16, 0x7FFF", "ISQRT 0x3FFF"] =
    some [0x1000000000000000, 0x2000000000000004, 0x3000000000004000, 0x400000000000FFF8, 0x5000000000000000,
      0x6000000000000000, 0x7000000100000000, 0x8000000000001000, 0x9000800000004000, 0xA02167000000FFFF,
      0xA81F570000008000, 0xB82AFD00FFE00000, 0xB82AF90000200000, 0xC02005000000FFFF, 0xD81E050000007FFF,
      0xE000000000003FFF] := by decide +kernel

/-- R124, R125: a field too wide, a format of another signedness, and other integer bits are assembly errors. -/
theorem test_assemble_refuses :
    assembleLine "SETF 65536" = none ∧ assembleLine "RDREG 16" = none ∧
    assembleLine "FXEXT UQ0.16/C16 -> SQ0.22/C32, 1" = none ∧ assembleLine "FXSHR UQ1.16/C32 -> UQ0.8/C32, 1" = none ∧
    assembleLine "FXU2S UQ0.16/C16 -> SQ0.16/C32, 1" = none := by decide +kernel

/-- Rejected words of 95_test_vectors.md L2.7. -/
theorem test_decode_rejects :
    decode 0x0000000000000000 = .error .reservedOpcode ∧ decode 0xF000000000000000 = .error .reservedOpcode ∧
    decode 0x5000000000000001 = .error .reservedBits ∧ decode 0x2000000000014001 = .error .reservedBits ∧
    decode 0x7000001000000000 = .error .reservedBits ∧ decode 0x9000000000010000 = .error .reservedBits := by
  decide

theorem test_decodeTableWord :
    decodeTableWord 64 0x3000000000004000 = some (.setp 0x4000) ∧ decodeTableWord 64 0 = none := by decide

/-! ## One step of each command, the values of 95_test_vectors.md -/

/-- R240 and P5 line 9: INIT clears the schedule and keeps FAULT. -/
theorem test_init : regAfter { window with fault := true } 0x1000000000000000 .status = some 2 ∧
    regAfter window 0x1000000000000000 .sampl = some 0 := by decide +kernel

/-- L1.13. -/
theorem test_setf_limits :
    answer State.reset 0x2000000000004001 = some ⟨.einval, 0⟩ ∧
    regAfter State.reset 0x2000000000004001 .status = some 2 ∧
    answer State.reset 0x2000000000000000 = some ⟨.ok, 0⟩ := by decide +kernel

/-- P3 line 3: SETF 1 after SETA 0xF000 finds the window of five samples. -/
theorem test_setf_window : regsOf (runCommand 0x2000000000000001 { State.reset with att := 0xF000 }) =
    some [1, 0, 0xF000, 1, 0, 0, 5, 1, 2, 5, 2, 1, 0, 3, 2, 1] := by decide +kernel

/-- L2.3: SETP 0xC000 after reset. -/
theorem test_setp : regAfter State.reset 0x300000000000C000 .phi0 = some 0xC000 ∧
    regAfter State.reset 0x300000000000C000 .val0 = some 0x8000 := by decide +kernel

/-- P1 lines 4 and 5: SETA 1 at phase 0xC000. -/
theorem test_seta : regAfter { State.reset with phi := 0xC000 } 0x4000000000000001 .val0 = some 0x8001 := by
  decide +kernel

/-- L2.3: the phase wraps. -/
theorem test_step_wraps :
    regAfter { State.reset with freq := 4, phi := 0xFFFE } 0x6000000000000000 .phi = some 2 := by decide +kernel

/-- P3, t = 4: the window retires and the next one begins. -/
theorem test_step_retires : regsOf (runCommand 0x6000000000000000 windowEnd) =
    some [1, 5, 0xF000, 1, 5, 1, 10, 2, 2, 5, 2, 1, 0, 3, 2, 1] := by decide +kernel

/-- P1 line 3 and P3, t = 3: the direct sample, and the sample of a window. -/
theorem test_out :
    answer { State.reset with phi := 0xC000 } 0x5000000000000000 = some ⟨.ok, 0x8000⟩ ∧
    answer { window with phi := 3, sidx := 3 } 0x5000000000000000 = some ⟨.ok, 1⟩ := by decide +kernel

/-- L2.3 and P6: CFG of the default instance and of one in HALT mode. -/
theorem test_rdreg_cfg :
    answer State.reset 0x7000000F00000000 = some ⟨.ok, 1⟩ ∧
    answer (State.powerOn haltMode) 0x7000000F00000000 = some ⟨.ok, 9⟩ := by decide +kernel

/-- R246: a negative VAL0 reads as its 16-bit pattern. -/
theorem test_rdreg_negative :
    answer { State.reset with val0 := 0xFFFF } 0x7000000500000000 = some ⟨.ok, 0x0000FFFF⟩ := by decide +kernel

/-- L2.2: an interpolated phase, the negative zero and the negative singular phase. -/
theorem test_sine :
    answer State.reset 0x8000000000001020 = some ⟨.ok, 0x000062B1⟩ ∧
    answer State.reset 0x8000000000008000 = some ⟨.ok, 0x00020000⟩ ∧
    answer State.reset 0x800000000000C000 = some ⟨.ok, 0x00030000⟩ := by decide +kernel

/-- L2.2: a rounded negative sample, and the rail that att = 1 no longer reaches. -/
theorem test_msine :
    answer State.reset 0x900000000000A000 = some ⟨.ok, 0x0000A57D⟩ ∧
    answer State.reset 0x900000010000C000 = some ⟨.ok, 0x00008001⟩ := by decide +kernel

/-- L2.1: -1.0 stays -1.0; A32 above C_S. -/
theorem test_fxext :
    answer State.reset 0xA81F570000008000 = some ⟨.ok, 0xFFE00000⟩ ∧
    answer State.reset 0xA021670000010000 = some ⟨.eillegal, 0⟩ := by decide +kernel

/-- L2.1: a 22-bit source; -1 shrinks to -1. -/
theorem test_fxshr :
    answer State.reset 0xB82AF90000200000 = some ⟨.ok, 0x00008000⟩ ∧
    answer State.reset 0xB81E74000000FFFF = some ⟨.ok, 0x000000FF⟩ := by decide +kernel

/-- L2.1: an odd code loses bit 0. -/
theorem test_fxu2s : answer State.reset 0xC020050000008001 = some ⟨.ok, 0x00004000⟩ := by decide +kernel

/-- L2.1: the largest result; a negative source. -/
theorem test_fxs2u :
    answer State.reset 0xD81E050000007FFF = some ⟨.ok, 0x0000FFFE⟩ ∧
    answer State.reset 0xD81E050000008000 = some ⟨.einval, 0⟩ := by decide +kernel

/-- L2.6: the last input of the table, and the first beyond it under SAT127 and EXACT. -/
theorem test_isqrt :
    answer State.reset 0xE000000000003FFF = some ⟨.ok, 127⟩ ∧
    answer State.reset 0xE000000000004000 = some ⟨.ok, 127⟩ ∧
    answer (State.powerOn { Params.default with isqrtOver := .exact }) 0xE000000000006000 = some ⟨.ok, 156⟩ := by
  decide +kernel

/-- R296's example, the pattern 00000 00001 00011 0 11111. -/
theorem test_tile_default :
    (List.range 21).map (fun k => tile .default ⟨k, 21, 4, 5, 1⟩) =
      [false, false, false, false, false, false, false, false, false, true, false, false, false, true, true,
        false, true, true, true, true, true] := by decide

/-- P6: in HALT mode the failing command gets no response and halts the block. -/
theorem test_halt :
    progress (runCommand 0x2000000000008000 (State.powerOn haltMode)) = some (true, 0, 0) ∧
    regAfter (State.powerOn haltMode) 0x2000000000008000 .status = some 2 := by decide +kernel

/-- The very next step after withFetchWord runs the word. -/
theorem test_withFetchWord :
    progress (step (State.reset.withFetchWord 64 0x3000000000001234)) = some (false, 1, 1) ∧
    (regsOf (step (State.reset.withFetchWord 64 0x3000000000001234))).map (fun l => l[1]?) = some (some 0x1234) := by
  decide +kernel

/-! ## Witnesses: states and operands that meet the hypotheses of the statements -/

theorem paramsLegal_default : ParamsLegal Params.default := by unfold ParamsLegal; decide +kernel

/-- The scheduled window of P3 meets the invariant, at every one of its samples. -/
theorem window_inv (k : Fin 5) :
    ({ window with sidx := BitVec.ofNat 16 k.val, phi := BitVec.ofNat 16 k.val } : State).Inv := by
  have plateau : ∀ j < 5, directAt window (windowPhase window j) =
      if j < 3 then window.val0.toInt else window.val1.toInt := by decide +kernel
  refine ⟨paramsLegal_default, rfl, ?_, ?_, fun _ => ⟨rfl, ?_, ?_, ?_, ?_, ?_, ?_, ?_, ?_, ?_, ?_, ?_, ?_, ?_, ?_,
    ?_, ?_, ?_, 3, ?_, ?_, plateau⟩, fun h => Bool.noConfusion h, fun h => Bool.noConfusion h⟩
  all_goals (revert k; decide +kernel)

/-- An instance that rescans, after its reset, meets the invariant with FREQ = 0 and no schedule. -/
theorem idle_inv : (State.powerOn { Params.default with rescan := true }).Inv := by
  refine ⟨paramsLegal_default, rfl, by decide +kernel, by decide +kernel, fun h => (Bool.noConfusion h),
    fun _ => ?_, fun h => (Bool.noConfusion h)⟩
  constructor <;> rfl

theorem witness_EncodeUndoesDecode : ∃ (w : CmdWord) (i : Instr), decode w = .ok i :=
  ⟨0x9000800000004000, .msine 0x4000 0x8000, by decide⟩

theorem witness_DecodingMatchesTheTable :
    State.reset.halted = false ∧ (∃ i, decode 0x6000000000000000 = .ok i) ∧
      ∃ e, decode 0x6000000000000001 = .error e := ⟨rfl, ⟨.step, by decide⟩, .reservedBits, by decide⟩

theorem witness_ReservedWordsRaiseIllegal :
    State.reset.halted = false ∧ field 0x0FFFFFFFFFFFFFFF 60 4 = 0x0 ∧ field 0xF000000000000000 60 4 = 0xF ∧
      ∃ r ∈ opcodeTable, field r.value 60 4 = field 0x5000000000000001 60 4 ∧
        0x5000000000000001 &&& r.mask ≠ r.value := ⟨rfl, by decide, by decide, by decide⟩

/-- Both sides of each width: 4, 16 and 32 bits. -/
theorem witness_AssemblerNeverTruncates :
    numberOf "15".toList = some 15 ∧ numberOf "0X10".toList = some 16 ∧
      numberOf "0XFFFF".toList = some 0xFFFF ∧ numberOf "65536".toList = some 0x10000 ∧
      numberOf "0XFFFFFFFF".toList = some 0xFFFFFFFF ∧ numberOf "0X100000000".toList = some 0x100000000 := by
  decide +kernel

theorem witness_AssemblerNeverTruncates_formats :
    formatOf "UQ0.16/C16" = some ⟨false, 0, 16, .c16⟩ ∧ formatOf "SQ0.21/C32" = some ⟨true, 0, 21, .c32⟩ := by
  decide +kernel

/-- The formats of R127, at the ends of the fields M and NS too. -/
theorem witness_AssembledFormatsAgree :
    (conversionOf "FXEXT" ⟨true, 0, 15, .c16⟩ ⟨true, 0, 21, .c32⟩ 0).isSome = true ∧
      (conversionOf "FXSHR" ⟨true, 31, 31, .c16⟩ ⟨true, 31, 0, .c32⟩ 0).isSome = true ∧
      (conversionOf "FXU2S" ⟨false, 0, 16, .c16⟩ ⟨true, 0, 15, .c16⟩ 0).isSome = true ∧
      (conversionOf "FXS2U" ⟨true, 0, 31, .c32⟩ ⟨false, 0, 32, .c32⟩ 0).isSome = true := by decide +kernel

theorem witness_PseudoInstructionsExpand : (immediate 16 "0XFFFF").isSome = true := by decide +kernel

theorem witness_StepRunsTheDecodedCommand :
    let s := State.reset.withFetchWord 64 0x6000000000000000
    let b := State.reset.withFetchWord 64 0
    s.halted = false ∧ s.program[s.pos]? = some 0x6000000000000000 ∧ decode 0x6000000000000000 = .ok .step ∧
      b.program[b.pos]? = some 0 ∧ decode 0 = .error .reservedOpcode ∧
      State.reset.program[State.reset.pos]? = none := by decide +kernel

theorem witness_HaltedBlockAcceptsNothing :
    ({ State.powerOn haltMode with halted := true } : State).halted = true ∧
      (⟨true, true, 0x6000000000000000, true⟩ : PortIn).rstN = true := ⟨rfl, rfl⟩

/-- Both endings of EveryCommandEndsWithOneResponse occur. -/
theorem witness_EveryCommandEndsWithOneResponse :
    (State.powerOn haltMode).params.precond = .halt ∧
      progress (exec (.setf 0x4001) (State.powerOn haltMode)) = some (true, 0, 0) ∧
      State.reset.halted = false ∧ progress (exec (.setf 0x4001) State.reset) = some (false, 1, 1) := by
  decide +kernel

/-- Each clause of ErrorsAreExactlyThese, the limit of SETF from both sides. -/
theorem witness_ErrorsAreExactlyThese :
    (∃ t, exec (.setf 0x4001) State.reset = .next t) ∧ (Instr.fxext extend15 0x10000).wellFormed = false ∧
      0x4000 < (0x4001 : Word).toNat ∧ (0x4000 : Word).toNat ≤ 0x4000 ∧
      ((Instr.fxext ⟨false, 0, 15, 15, .c16, .c16⟩ 0x8000).wellFormed = true ∧
        ¬ FxCanonical ⟨false, 0, 15, 15, .c16, .c16⟩ 0x8000) ∧
      ((Instr.fxs2u removeSign 0x8000).wellFormed = true ∧ FxCanonical removeSign 0x8000 ∧
        fxCode removeSign 0x8000 < 0) ∧
      (FxCanonical removeSign 0x7FFF ∧ 0 ≤ fxCode removeSign 0x7FFF) := by
  unfold FxCanonical
  exact ⟨⟨_, rfl⟩, by decide +kernel⟩

/-- Each way to a set FAULT: it was set, an answered error, a halt; and a command that leaves it 0. -/
theorem witness_FaultIsSticky :
    (∃ t, runCommand 0x1000000000000000 { State.reset with fault := true } = .next t) ∧
      (∃ t, runCommand 0 State.reset = .next t ∧ t.responses = State.reset.responses ++ [⟨.eillegal, 0⟩]) ∧
      (∃ t, runCommand 0 (State.powerOn haltMode) = .next t ∧ (State.powerOn haltMode).halted = false ∧
        t.halted = true) ∧
      ∃ t, runCommand 0x6000000000000000 State.reset = .next t ∧ t.fault = false :=
  ⟨⟨_, rfl⟩, ⟨_, rfl, rfl⟩, ⟨_, rfl, rfl, rfl⟩, ⟨_, rfl, rfl⟩⟩

theorem witness_HaltModeAnswersNoError :
    (∃ t, runCommand 0x2000000000008000 (State.powerOn haltMode) = .next t ∧ t.halted = true) ∧
      (∃ t, runCommand 0x6000000000000000 (State.powerOn haltMode) = .next t ∧ t.halted = false) ∧
      (State.powerOn haltMode).params.precond = .halt ∧ State.reset.params.precond = .error :=
  ⟨⟨_, rfl, rfl⟩, ⟨_, rfl, rfl⟩, rfl, rfl⟩

theorem witness_ResetZeroesEveryRegister : ParamsLegal window.params ∧ window.fault = false :=
  ⟨paramsLegal_default, rfl⟩

/-- Every clause of OnlyTheirCommandsWriteRegisters has a command that changes what it names. -/
theorem witness_OnlyTheirCommandsWriteRegisters :
    (∃ t, exec (.setf 0) window = .next t ∧ t.freq ≠ window.freq ∧ t.pp ≠ window.pp ∧
      readReg t .sampl ≠ readReg window .sampl) ∧
      (∃ t, exec .step window = .next t ∧ t.phi ≠ window.phi) ∧
      (∃ t, exec .init window = .next t ∧ t.att ≠ window.att) ∧
      ∃ t, exec (.setf 0x4001) (State.powerOn haltMode) = .next t ∧ t.halted ≠ (State.powerOn haltMode).halted :=
  ⟨⟨_, rfl, by decide +kernel⟩, ⟨_, rfl, by decide +kernel⟩, ⟨_, rfl, by decide +kernel⟩, _, rfl,
    by decide +kernel⟩

theorem witness_NoStepWritesTablesOrParameters :
    ∃ t, step (window.withFetchWord 64 0x6000000000000000) = .next t := ⟨_, rfl⟩

theorem witness_Setf_limits : (0x4000 : Word).toNat ≤ 0x4000 ∧ (0 : Word).toNat ≤ 0x4000 ∧
    0x4000 < (0x4001 : Word).toNat ∧ 0x4000 < (0xFFFF : Word).toNat := by decide

theorem witness_CommandsAreIdempotent :
    (∃ t u, exec (.setf 0x4000) State.reset = .next t ∧ exec (.setf 0x4000) t = .next u) ∧ Instr.out ≠ .step ∧
      ({ window with phi := 0, att := 0 } : State).phi = State.reset.phi ∧
      ({ window with phi := 0, att := 0 } : State).att = State.reset.att ∧
      window.params = State.reset.params ∧ window.romIsqrt = State.reset.romIsqrt ∧
      ∃ t, exec (.setf 0x4000) { window with phi := 0, att := 0 } = .next t :=
  ⟨⟨_, _, rfl, rfl⟩, by decide, rfl, rfl, rfl, rfl, _, rfl⟩

theorem witness_PausedStepChangesNothing : State.reset.freq = 0 := rfl

/-- An active window not at its end, its last sample but one, and an inactive smoother that does not rescan. -/
theorem witness_StepAdvancesPhaseAndIndex :
    (window.freq ≠ 0 ∧ window.pp = true ∧ window.sidx + 1 ≠ window.sampl) ∧
      (({ window with phi := 3, sidx := 3 } : State).sidx + 1 ≠ window.sampl) ∧
      (({ State.reset with freq := 1 } : State).freq ≠ 0 ∧ State.reset.pp = false ∧
        State.reset.params.rescan = false) := by decide +kernel

theorem witness_StepRetiresTheWindow :
    windowEnd.freq ≠ 0 ∧ windowEnd.pp = true ∧ windowEnd.sidx + 1 = windowEnd.sampl := by decide +kernel

theorem witness_StepRescansWhileInactive :
    let s : State := { State.powerOn { Params.default with rescan := true } with freq := 3 }
    s.freq ≠ 0 ∧ s.pp = false ∧ s.params.rescan = true := by decide +kernel

theorem witness_OutAnswersTheSample :
    State.reset.pp = false ∧ window.pp = true ∧ tile window.params.tile (tileArgs window) = false ∧
      windowEnd.pp = true ∧ tile windowEnd.params.tile (tileArgs windowEnd) = true := by decide +kernel

/-- L1.5: FREQ 0x4000 has the period 4, FREQ 0 the period 1. -/
theorem witness_PhasePeriod :
    0x10000 / Nat.gcd 0x10000 (0x4000 : Word).toNat = 4 ∧ 0x10000 / Nat.gcd 0x10000 (0 : Word).toNat = 1 ∧
      0 < 3 ∧ 3 < 0x10000 / Nat.gcd 0x10000 (0x4000 : Word).toNat := by decide +kernel

theorem witness_PausedOutputIsConstant :
    ∃ s : State, s.Inv ∧ s.freq = 0 := ⟨_, idle_inv, rfl⟩

/-- The ends of the four quadrants. -/
theorem witness_FoldingStaysInTheQuadrant :
    ([0, 0x3FFF, 0x4001, 0x7FFF, 0x8000, 0xBFFF, 0xC001, 0xFFFF] : List Word).all
      (fun x => decide (x ≠ 0x4000) && decide (x ≠ 0xC000)) = true := by decide

/-- The remainder's two ends with the knot after them: entry 255 inside the table, P_LUT_TOP after it; and a phase
that is not singular. -/
theorem witness_SineAtKnotsIsTheTableEntry :
    (∃ r hi : Nat, 0 < r ∧ r < 64 ∧ r = 1 ∧
      (∀ h : (254 : Fin 256).val + 1 < 256, hi = (Params.default.sineLut.get ⟨(254 : Fin 256).val + 1, h⟩).toNat) ∧
      ((254 : Fin 256).val = 255 → hi = Params.default.lutTop.val)) ∧
    (∃ r hi : Nat, 0 < r ∧ r < 64 ∧ r = 63 ∧
      (∀ h : (255 : Fin 256).val + 1 < 256, hi = (Params.default.sineLut.get ⟨(255 : Fin 256).val + 1, h⟩).toNat) ∧
      ((255 : Fin 256).val = 255 → hi = Params.default.lutTop.val)) ∧
    (0x8001 : Word) ≠ 0x4000 ∧ (0x8001 : Word) ≠ 0xC000 :=
  ⟨⟨1, _, by decide, by decide, rfl, fun _ => rfl, fun h => absurd h (by decide)⟩,
    ⟨63, _, by decide, by decide, rfl, fun h => absurd h (by decide), fun _ => rfl⟩, by decide, by decide⟩

theorem witness_SineMirror : (0 : Word).toNat ≤ 0x4000 ∧ (0x4000 : Word).toNat ≤ 0x4000 ∧
    ParamsLegal Params.default := ⟨by decide, by decide, paramsLegal_default⟩

theorem witness_SineHalfTurn : (0x7FFF : Word).toNat < 0x8000 ∧ (0x4000 : Word).toNat < 0x8000 ∧
    ((0x4000 : Word) ≠ 0x4000 ∨ (1 : Word) ≠ 0) := by decide

theorem witness_MsineRoundsTheScaledMagnitude :
    (sineFn Params.default 0xC000).mag * (0x10000 - (1 : Word).toNat) / 0x10000 ≠ 0x10000 ∧
      (sineFn Params.default 0xC000).neg = true ∧ (sineFn Params.default 0x4000).neg = false := by decide +kernel

/-- The FX statements: the extreme codes of the source format. -/
theorem witness_FxextShiftsLeft : (Instr.fxext extend15 0x8000).wellFormed = true ∧ FxCanonical extend15 0x8000 ∧
    FxCanonical extend15 0x7FFF := by unfold FxCanonical; decide +kernel

theorem witness_FxshrFloors : (Instr.fxshr shrink21 0xFFE00000).wellFormed = true ∧
    FxCanonical shrink21 0xFFE00000 ∧ FxCanonical shrink21 0x001FFFFF := by unfold FxCanonical; decide +kernel

theorem witness_FxuToSHalves : (Instr.fxu2s insertSign 0xFFFF).wellFormed = true ∧ FxCanonical insertSign 0xFFFF ∧
    FxCanonical insertSign 0 := by unfold FxCanonical; decide +kernel

theorem witness_FxsToUDoubles : (Instr.fxs2u removeSign 0x7FFF).wellFormed = true ∧ FxCanonical removeSign 0x7FFF ∧
    0 ≤ fxCode removeSign 0x7FFF ∧ 0 ≤ fxCode removeSign 0 := by unfold FxCanonical; decide +kernel

theorem witness_ShrinkUndoesExtend : (Instr.fxext extend15 0xC000).wellFormed = true ∧
    FxCanonical extend15 0xC000 := by unfold FxCanonical; decide +kernel

theorem witness_ExtendAfterShrinkClearsLowBits : (Instr.fxshr shrink21 0xFFFFFFFF).wellFormed = true ∧
    FxCanonical shrink21 0xFFFFFFFF := by unfold FxCanonical; decide +kernel

/-- Both halves, the first at the largest ns it allows. -/
theorem witness_SignRoundTrips :
    ((Instr.fxs2u ⟨true, 0, 30, 0, .c32, .c32⟩ 0x3FFFFFFF).wellFormed = true ∧
      FxCanonical ⟨true, 0, 30, 0, .c32, .c32⟩ 0x3FFFFFFF ∧ 0 ≤ fxCode ⟨true, 0, 30, 0, .c32, .c32⟩ 0x3FFFFFFF ∧
      (30 : BitVec 5).toNat < 31) ∧
      (Instr.fxu2s insertSign 0x8001).wellFormed = true ∧ FxCanonical insertSign 0x8001 := by
  unfold FxCanonical; decide +kernel

/-- The table's last input, and the first beyond it in both modes. -/
theorem witness_IsqrtAnswersTheRoot :
    State.reset.romIsqrt = Config.isqrtRom ∧ (0x3FFF : Word).toNat < 0x4000 ∧
      0x4000 ≤ (0x4000 : Word).toNat ∧ State.reset.params.isqrtOver = .sat127 ∧
      (State.powerOn { Params.default with isqrtOver := .exact }).params.isqrtOver = .exact :=
  ⟨rfl, by decide, by decide, rfl, rfl⟩

/-- A scan that finds its transition (P3: cnt1 = 3), and one that is exhausted (FREQ 0x4000 at full attenuation). -/
theorem witness_ScanFindsTheFirstChange :
    (scan window 0 0).map (fun h => h.cnt) = some 3 ∧
      scan { State.reset with freq := 0x4000, att := 0xFFFF } 0x4000 0 = none := by decide +kernel

/-- R296's example and the smallest tiling; the ends of each range of TileDefaultLayout. -/
theorem witness_Tiles :
    (2 ≤ 4 ∧ 4 ≤ 5 ∧ 5 = 21 / 4 ∧ 1 = 21 % 4 ∧ 2 + 1 < 4 ∧ 4 < 5 ∧ 0 < 1) ∧
      (2 ≤ 2 ∧ 2 ≤ 2 ∧ 2 = 5 / 2 ∧ 1 = 5 % 2 ∧ 0 + 1 < 2 ∧ 1 < 2) := by decide

theorem witness_ResetMeetsTheInvariant : ParamsLegal haltMode := paramsLegal_default

theorem witness_StepKeepsTheInvariant : ∃ s t : State, s.Inv ∧ s.pp = true ∧ step s = .next t :=
  ⟨_, _, window_inv 4, rfl, rfl⟩

/-- SmootherIsSound: no schedule, a window's first sample, and its last. -/
theorem witness_SmootherIsSound :
    (∃ s : State, s.Inv ∧ s.pp = false) ∧ (∃ s : State, s.Inv ∧ s.pp = true ∧ s.sidx = 0) ∧
      ∃ s : State, s.Inv ∧ s.pp = true ∧ s.sidx + 1 = s.sampl :=
  ⟨⟨_, idle_inv, rfl⟩, ⟨_, window_inv 0, rfl, rfl⟩, ⟨_, window_inv 4, rfl, rfl⟩⟩

theorem witness_ScheduleRegistersStayInRange :
    ∃ s : State, s.Inv ∧ s.pp = true ∧ s.params.isqrtOver = .sat127 := ⟨_, window_inv 0, rfl, rfl⟩

/-- A command of latency 3, and one of latency 1. -/
theorem witness_ClockedBlockAgreesWithTheCommand :
    let c : Clocked := ⟨window, .idle⟩
    let i : PortIn := ⟨true, true, 0x6000000000000000, false⟩
    c.phase = .idle ∧ c.st.halted = false ∧ i.rstN = true ∧ i.cmdValid = true ∧
      (∀ j ∈ [i, i], j.rstN = true) ∧ [i, i].length + 1 = max 1 3 ∧ ([] : List PortIn).length + 1 = max 1 1 := by
  decide +kernel

theorem witness_ResetAbandonsTheCommand :
    (⟨false, true, 0, true⟩ : PortIn).rstN = false ∧ (⟨true, true, 0, true⟩ : PortIn).rstN = true := ⟨rfl, rfl⟩

/-- A block that is not ready, and an untaken response. -/
theorem witness_OneCommandAtATime :
    (Clocked.outputs ⟨window, .executing 0x6000000000000000 2⟩ ⟨true, true, 0, true⟩).cmdReady = false ∧
      (Clocked.outputs ⟨window, .idle⟩ ⟨true, true, 0, true⟩).cmdReady = true ∧
      (⟨window, .responding ⟨.einval, 0⟩⟩ : Clocked).phase = .responding ⟨.einval, 0⟩ ∧
      (⟨true, true, 0, false⟩ : PortIn).rstN = true ∧ (⟨true, true, 0, false⟩ : PortIn).rspReady = false ∧
      (⟨true, true, 0, true⟩ : PortIn).rspReady = true ∧
      (⟨window, .idle⟩ : Clocked).phase = .idle ∧ (⟨true, false, 0, true⟩ : PortIn).cmdValid = false := by decide +kernel

end Sys2Proof.Tests
end

/-!
PROOFS, the family of 10_state.md: the invariant of the command boundary (R53 to R55) and the ranges it gives (R39 to
R43), how commands end (R49, R336), which command writes which register (R31), the bits of STATUS and CFG (R35, R47),
and runs (70_reset_and_hazards.md R383).
-/
namespace Sys2Proof.Machine

/-! ## What a command can do -/

/-- The next state t of the command i on s, by what it writes: a response or an error over unchanged registers, or the
writes of one of the six commands that have any (10_state.md R31). -/
inductive Effect (s : State) : Instr → State → Prop where
  | answer (i : Instr) (d : RspData) : Effect s i (s.respond .ok d)
  | fail (i : Instr) (e : Err) : Effect s i (s.raise e)
  | init {t : State} (h : execInit s = .next t) : Effect s .init t
  | setf (v : Word) (h : v.toNat ≤ Config.freqMax) : Effect s (.setf v) ((rebuild (s.setFreq v)).respond .ok 0)
  | setp (v : Word) : Effect s (.setp v) ((rebuild (s.setPhi v)).respond .ok 0)
  | seta (v : Word) : Effect s (.seta v) ((rebuild (s.setAtt v)).respond .ok 0)
  | step (h : s.freq ≠ 0) : Effect s .step ((afterAdvance (advance s)).respond .ok 0)

theorem Effect.finish (i : Instr) (s : State) (r : Except Err RspData) : Effect s i (s.finish r) := by
  rcases finish_cases r s with ⟨d, -, h⟩ | ⟨e, -, h⟩ <;> rw [h]
  · exact .answer i d
  · exact .fail i e

/-- Every next state of a command is one of its effects. -/
theorem exec_effect {i : Instr} {s t : State} (h : exec i s = .next t) : Effect s i t := by
  cases i with
  | init => exact .init h
  | setf v =>
    simp only [exec, execSetf] at h
    split at h
    · cases h; exact .fail _ _
    · cases h; exact .setf v (by omega)
  | setp v => cases h; exact .setp v
  | seta v => cases h; exact .seta v
  | step =>
    simp only [exec, execStep] at h
    split at h
    · cases h; exact .answer _ _
    · cases h; exact .step ‹_›
  | out | rdreg _ | sine _ | msine _ _ | isqrt _ => cases h; exact .answer _ _
  | fxext _ _ | fxshr _ _ | fxu2s _ _ | fxs2u _ _ => cases h; exact .finish _ _ _

/-- The three continuations of an advance (R244, R299, R301): a window that has reached its end retires, an inactive
smoother that rescans rebuilds, and nothing follows otherwise. -/
theorem afterAdvance_cases (s : State) :
    (s.pp = true ∧ s.sidx = s.sampl ∧ afterAdvance s = retire s) ∨
      (s.pp = false ∧ s.params.rescan = true ∧ afterAdvance s = rebuild s) ∨
      ((s.pp = true → s.sidx ≠ s.sampl) ∧ afterAdvance s = s) := by
  unfold afterAdvance
  split
  · rename_i h
    obtain ⟨hp, he⟩ := h
    exact .inl ⟨hp, he, rfl⟩
  · rename_i h
    split
    · rename_i h'
      obtain ⟨hp, hr⟩ := h'
      exact .inr (.inl ⟨hp, hr, rfl⟩)
    · exact .inr (.inr ⟨fun hp he => h ⟨hp, he⟩, rfl⟩)

/-! ## The lookahead establishes the invariant -/

/-- On a table whose entry 0 is sin(0), the sample at phase 0 is 0 at every attenuation (20_memory.md R82). -/
theorem msineFn_zero {p : Params} (h : ParamsLegal p) (att : Word) : msineFn p 0 att = 0 := by
  have hs : sineFn p 0 = ⟨0, false⟩ := by
    rw [sineFn_folded p (by decide) (by decide)]
    exact congrArg (SignMag.mk · false) h
  have hq : scaledMag p 0 att = 0 := by rw [scaledMag, hs, mul16_eq]; simp
  rw [msineFn, hq, hs]
  rfl

@[simp] theorem windowPhase_zero (s : State) : windowPhase s 0 = s.phi0 := by simp [windowPhase, phaseFrom]

theorem windowPhase_add (s : State) (n j : Nat) :
    windowPhase s (n + j) = phaseFrom s (windowPhase s n) j := by
  rw [windowPhase, windowPhase, phaseFrom, phaseFrom, phaseFrom, Nat.add_mul, BitVec.ofNat_add, BitVec.add_assoc]

theorem windowPhase_succ (s : State) (j : Nat) : windowPhase s (j + 1) = windowPhase s j + s.freq := by
  rw [windowPhase_add]
  simp [phaseFrom]

/-- The samples of the second plateau, up to the end of the window, are the new value (R282, R289). -/
theorem WindowAt.second_plateau {s : State} {n1 n2 j : Nat} (h : WindowAt s n1 n2) (hj : j < n2) :
    directAt s (windowPhase s (n1 + j)) = newValue s n1 := by
  rcases Nat.eq_zero_or_pos j with rfl | hpos
  · rfl
  · rw [windowPhase_add]; exact h.second.first j hpos hj

/-- The samples before the first transition are VAL0, where VAL0 is the sample at PHI0 (R282, R55). -/
theorem WindowAt.first_plateau {s : State} {n1 n2 j : Nat} (h : WindowAt s n1 n2)
    (h0 : s.val0.toInt = directAt s s.phi0) (hj : j < n1) :
    directAt s (windowPhase s j) = s.val0.toInt := by
  rcases Nat.eq_zero_or_pos j with rfl | hpos
  · rw [windowPhase_zero, h0]
  · exact h.first.first j hpos hj

/-- The block without its schedule: what the invariant asks of every sub-state, and the current phase at PHI0. -/
structure State.AtBoundary (s : State) : Prop where
  legal : ParamsLegal s.params
  rom : s.romIsqrt = Config.isqrtRom
  freq_max : s.freq.toNat ≤ Config.freqMax
  val0_eq : s.val0.toInt = directAt s s.phi0
  phi_eq : s.phi = s.phi0
  halted_mode : s.halted = true → s.params.precond = .halt ∧ s.fault = true

/-- A lookahead writes nothing that makes a boundary. -/
theorem lookahead_atBoundary {s : State} (h : s.AtBoundary) : (lookahead s).AtBoundary where
  legal := by simpa using h.legal
  rom := by simpa using h.rom
  freq_max := by simpa using h.freq_max
  val0_eq := by simpa [directAt] using h.val0_eq
  phi_eq := by simpa using h.phi_eq
  halted_mode := by simpa using h.halted_mode

/-- An activation at a boundary is a schedule with all the relations of R53 (R286 to R297). -/
theorem State.AtBoundary.scheduled {t : State} {n1 n2 : Nat} (h : t.AtBoundary) (hs : t.sidx = 0)
    (hw : WindowAt t n1 n2) (ho : ScheduleOf t n1 n2) : t.Scheduled := by
  have hfreq : 1 ≤ t.freq.toNat :=
    Nat.one_le_iff_ne_zero.mpr fun h0 => hw.moving (BitVec.eq_of_toNat_eq h0)
  obtain ⟨-, -, hphase⟩ := hw.sampl_le
  have hn1 := hw.first.pos
  have hn2 := hw.second.pos
  have hsteps : 2 ≤ t.steps.toNat := by rw [ho.steps, ho.sampl]; exact hw.tiles
  have hroot : t.steps.toNat * t.steps.toNat ≤ t.sampl.toNat := by
    rw [ho.steps]; exact isqrtFn_le_root h.rom t.sampl.isLt
  have hle : t.steps.toNat ≤ t.msize.toNat := by
    rw [ho.msize]; exact (Nat.le_div_iff_mul_le (by omega)).mpr hroot
  have hsplit : t.aidx.toNat + t.msize.toNat + t.asize.toNat = t.sampl.toNat := by
    rw [ho.aidx, ho.asize, ← Nat.succ_mul, Nat.succ_eq_add_one, Nat.sub_add_cancel (by omega), ho.msize]
    exact Nat.div_add_mod _ _
  have hne : t.val1.toInt ≠ t.val0.toInt := by rw [ho.val1]; exact hw.first.change
  have hq := hw.one_quantum
  rw [← ho.val1, Config.maxStepDelta] at hq
  exact {
    enabled := hw.enabled
    moving := hfreq
    sampl_min := (Nat.mul_le_mul hsteps hsteps).trans hroot
    sampl_max := by rw [ho.sampl]; exact hphase
    steps_min := hsteps
    steps_root := ho.steps
    msize_eq := ho.msize
    asize_eq := ho.asize
    steps_le_msize := hle
    asize_lt_steps := by rw [ho.asize]; exact Nat.mod_lt _ (by omega)
    aidx_eq := ho.aidx
    ridx_eq := ho.ridx
    ridx_from_end := by rw [ho.ridx]; omega
    sidx_lt := by rw [hs, ho.sampl]; exact (by omega : 0 < n1 + n2 / 2)
    phi_eq := by rw [hs]; simpa using h.phi_eq
    phi1_eq := ho.phi1
    one_quantum := by omega
    settled := by rw [ho.phi1, ho.sampl, ho.val1]; exact hw.second_plateau (by omega)
    plateaus := by
      refine ⟨n1, hn1, by rw [ho.sampl]; omega, fun j hj => ?_⟩
      rw [ho.sampl] at hj
      split
      · exact hw.first_plateau h.val0_eq ‹_›
      · obtain ⟨k, rfl⟩ : ∃ k, j = n1 + k := ⟨j - n1, by omega⟩
        rw [ho.val1]; exact hw.second_plateau (by omega) }

/-- LOOKAHEAD at a boundary establishes the invariant (R53, R54, R286). -/
theorem lookahead_inv {s : State} (h : s.AtBoundary) : (lookahead s).Inv := by
  have hb := lookahead_atBoundary h
  obtain ⟨hs, ho⟩ := lookahead_outcome s
  refine ⟨hb.legal, hb.rom, hb.freq_max, hb.val0_eq, fun hp => ?_, fun hp => ?_, hb.halted_mode⟩
  · rcases ho with ⟨n1, n2, hw, hsched⟩ | ⟨-, hpp, -⟩
    · exact hb.scheduled hs hw hsched
    · rw [hpp] at hp; cases hp
  · rcases ho with ⟨n1, n2, -, hsched⟩ | ⟨-, -, hin⟩
    · rw [hsched.pp] at hp; cases hp
    · exact hin

/-- REBUILD establishes the invariant from any registers, FREQ legal (R281). -/
theorem rebuild_inv {s : State} (hl : ParamsLegal s.params) (hr : s.romIsqrt = Config.isqrtRom)
    (hf : s.freq.toNat ≤ Config.freqMax)
    (hh : s.halted = true → s.params.precond = .halt ∧ s.fault = true) : (rebuild s).Inv :=
  lookahead_inv
    { legal := hl, rom := hr, freq_max := hf, val0_eq := toInt_bits16_msineFn _ _ _, phi_eq := rfl, halted_mode := hh }

/-! ## Each ending of a command keeps the invariant -/

/-- The invariant does not read the response record, the host's list or its index. -/
theorem State.Inv.respond {s : State} (h : s.Inv) (st : Status) (d : RspData) : (s.respond st d).Inv :=
  { h with
    scheduled := fun hp => { h.scheduled hp with }
    inactive := fun hp => { h.inactive hp with } }

/-- An error keeps the invariant in both modes: it halts the block only in HALT mode, and sets FAULT (R335, R336). -/
theorem State.Inv.raise {s : State} (h : s.Inv) (e : Err) : (s.raise e).Inv := by
  have hfault : s.markFault.Inv :=
    { h with
      scheduled := fun hp => { h.scheduled hp with }
      inactive := fun hp => { h.inactive hp with }
      halted_mode := fun hh => ⟨(h.halted_mode hh).1, rfl⟩ }
  unfold State.raise
  split
  · exact hfault.respond _ _
  · rename_i hm
    exact { hfault with
      scheduled := fun hp => { hfault.scheduled hp with }
      inactive := fun hp => { hfault.inactive hp with }
      halted_mode := fun _ => ⟨hm, rfl⟩ }

/-- INIT leaves the registers of reset, with the inactive sub-state (R54, R240, R371). -/
theorem execInit_inv {s t : State} (h : s.Inv) (ht : execInit s = .next t) : t.Inv := by
  cases ht
  exact {
    legal := h.legal
    rom := h.rom
    freq_max := Nat.zero_le _
    val0_eq := (msineFn_zero h.legal 0).symm
    scheduled := fun hp => Bool.noConfusion hp
    inactive := fun _ => ⟨rfl, rfl, rfl, rfl, rfl, rfl, rfl, rfl⟩
    halted_mode := h.halted_mode }

/-- SIDX + 1 does not wrap inside a window (R44, R53). -/
theorem State.Scheduled.toNat_sidx_succ {s : State} (h : s.Scheduled) :
    (s.sidx + 1).toNat = s.sidx.toNat + 1 := by
  have hlt := h.sidx_lt
  have hmax := s.sampl.isLt
  exact Nat.mod_eq_of_lt (by omega : s.sidx.toNat + 1 < 0x10000)

/-- The advance moves PHI to the phase of the next window sample (R295). -/
theorem State.Scheduled.phi_add_freq {s : State} (h : s.Scheduled) :
    s.phi + s.freq = windowPhase s (s.sidx + 1).toNat := by
  rw [h.toNat_sidx_succ, windowPhase_succ, ← h.phi_eq]

/-- An advance inside the window keeps the schedule. -/
theorem advance_scheduled {s : State} (h : s.Scheduled) (hne : s.sidx + 1 ≠ s.sampl) :
    (advance s).Scheduled :=
  { h with
    sidx_lt := by
      have hlt := h.sidx_lt
      have hnat : (s.sidx + 1).toNat ≠ s.sampl.toNat := fun he => hne (BitVec.eq_of_toNat_eq he)
      rw [h.toNat_sidx_succ] at hnat
      rw [advance_sidx, h.toNat_sidx_succ, advance_sampl]
      omega
    phi_eq := h.phi_add_freq }

/-- The advance that reaches the end of the window lands on PHI1, where VAL1 is the sample: the window retires at a
boundary (R299, R300). -/
theorem retire_inv {s : State} (hi : s.Inv) (h : s.Scheduled) (he : s.sidx + 1 = s.sampl) :
    (retire (advance s)).Inv :=
  lookahead_inv
    { legal := hi.legal
      rom := hi.rom
      freq_max := hi.freq_max
      val0_eq := h.settled.symm
      phi_eq := by
        change s.phi + s.freq = s.phi1
        rw [h.phi_add_freq, he, ← h.phi1_eq]
      halted_mode := hi.halted_mode }

/-- STEP with FREQ not 0 keeps the invariant, whatever follows its advance (R244, R299, R301). -/
theorem afterAdvance_inv {s : State} (h : s.Inv) : (afterAdvance (advance s)).Inv := by
  rcases afterAdvance_cases (advance s) with ⟨hpp, hend, heq⟩ | ⟨-, -, heq⟩ | ⟨hgo, heq⟩ <;> rw [heq]
  · exact retire_inv h (h.scheduled hpp) hend
  · exact rebuild_inv h.legal h.rom h.freq_max h.halted_mode
  · exact { h with
      scheduled := fun hp => advance_scheduled (h.scheduled hp) (hgo hp)
      inactive := fun hp => { h.inactive hp with } }

/-- Every command keeps the invariant. -/
theorem exec_keeps_inv {i : Instr} {s t : State} (h : s.Inv) (ht : exec i s = .next t) : t.Inv := by
  cases exec_effect ht with
  | answer _ d => exact h.respond _ _
  | fail _ e => exact h.raise e
  | init ht => exact execInit_inv h ht
  | setf v hv => exact (rebuild_inv (s := s.setFreq v) h.legal h.rom hv h.halted_mode).respond _ _
  | setp v => exact (rebuild_inv (s := s.setPhi v) h.legal h.rom h.freq_max h.halted_mode).respond _ _
  | seta v => exact (rebuild_inv (s := s.setAtt v) h.legal h.rom h.freq_max h.halted_mode).respond _ _
  | step _ => exact (afterAdvance_inv h).respond _ _

/-- Settles O53: a step waits, rejects its word, or runs a command, and each keeps the invariant. -/
theorem stepKeepsTheInvariant : Obligations.StepKeepsTheInvariant := by
  intro s t h hstep
  rcases step_cases hstep with ⟨w, -, hw⟩ | ⟨-, -, rfl⟩
  · rcases runCommand_cases hw with ⟨-, ⟨i, -, hi⟩ | ⟨-, rfl⟩⟩
    · exact exec_keeps_inv h hi
    · exact h.raise _
  · exact h

/-! ## The endings of a command -/

/-- A block that is not halted ends every word as a command or as an error. -/
theorem runCommand_ends (w : CmdWord) {s : State} (h : s.halted = false) : Ends s (runCommand w s) := by
  unfold runCommand
  rw [if_neg (by simp [h])]
  split
  · exact exec_ends _ s
  · exact .inr ⟨_, rfl⟩

/-- The two endings of a next state: answered OK with FAULT and the tables unchanged, or failed. -/
theorem Ends.next_cases {s t : State} (h : Ends s (.next t)) :
    (t.fault = s.fault ∧ SameFixed s t ∧ ∃ d, Answered .ok d s t) ∨
      ∃ e : Err, Failed e.status s t := by
  rcases h with ⟨u, d, ht, hfault, hhalt, hparams, hrom, hprog, hpos, hresp⟩ | ⟨e, ht⟩ <;> cases ht
  · exact .inl ⟨hfault, ⟨hparams, hrom, hprog⟩, d, by simp [hresp], by simp [hpos], hhalt⟩
  · exact .inr ⟨e, failed_raise e s⟩

theorem Failed.sameFixed {st : Status} {s t : State} (h : Failed st s t) : SameFixed s t := by
  obtain ⟨-, -, -, hfix, -⟩ := h
  exact hfix

theorem Ends.sameFixed {s t : State} (h : Ends s (.next t)) : SameFixed s t := by
  rcases h.next_cases with ⟨-, hfix, -⟩ | ⟨e, hf⟩
  · exact hfix
  · exact hf.sameFixed

/-- A command ended with one response and the index one further, or halted the block in HALT mode with neither. -/
def EndsOnce (s t : State) : Prop :=
  (∃ st data, Answered st data s t ∧ (st ≠ .ok → data = 0)) ∨
    (s.params.precond = .halt ∧ t.halted = true ∧ t.responses = s.responses ∧ t.pos = s.pos)

theorem Failed.endsOnce {st : Status} {s t : State} (h : Failed st s t) : EndsOnce s t := by
  obtain ⟨-, -, -, -, ⟨-, ha⟩ | hhalt⟩ := h
  · exact .inl ⟨st, 0, ha, fun _ => rfl⟩
  · exact .inr hhalt

/-- An ending is a next state, reached with one response or by halting. -/
theorem Ends.exists_endsOnce {s : State} {o : Host.Outcome State Fault Refusal} (h : Ends s o) :
    ∃ t, o = .next t ∧ EndsOnce s t := by
  obtain ⟨t, rfl⟩ : ∃ t, o = .next t := by
    rcases h with ⟨u, d, ho, -⟩ | ⟨e, ho⟩ <;> exact ⟨_, ho⟩
  refine ⟨t, rfl, ?_⟩
  rcases h.next_cases with ⟨-, -, d, ha⟩ | ⟨e, hf⟩
  · exact .inl ⟨.ok, d, ha, fun hne => absurd rfl hne⟩
  · exact hf.endsOnce

/-- Settles O11: every command ends as one of `Ends`, whose two cases are the two of the statement. -/
theorem everyCommandEndsWithOneResponse : Obligations.EveryCommandEndsWithOneResponse :=
  ⟨fun i s => (exec_ends i s).exists_endsOnce, fun w _ h => (runCommand_ends w h).exists_endsOnce, rfl, rfl, rfl⟩

theorem runCommand_of_halted (w : CmdWord) {s : State} (h : s.halted = true) : runCommand w s = .fault .halted :=
  if_pos h

/-- In HALT mode a failure halts the block, writes FAULT and nothing else, and is not answered (R336). -/
theorem Failed.halt_mode {st : Status} {s t : State} (h : Failed st s t) (hm : s.params.precond = .halt) :
    t.halted = true ∧ t.fault = true ∧ t.responses = s.responses ∧ t.pos = s.pos ∧
      SameRegsBut [.status] s t ∧ t.pp = s.pp ∧ SameFixed s t ∧ ∀ w, runCommand w t = .fault .halted := by
  obtain ⟨hregs, hpp, hfault, hfix, ⟨he, -⟩ | ⟨-, hhalt, hresp, hpos⟩⟩ := h
  · rw [hm] at he; cases he
  · exact ⟨hhalt, hfault, hresp, hpos, hregs, hpp, hfix, fun w => runCommand_of_halted w hhalt⟩

/-- In ERROR mode a failure does not halt the block (R336). -/
theorem Failed.error_mode {st : Status} {s t : State} (h : Failed st s t) (hm : s.params.precond = .error) :
    t.halted = s.halted := by
  obtain ⟨-, -, -, -, ⟨-, -, -, hhalt⟩ | ⟨hh, -⟩⟩ := h
  · exact hhalt
  · rw [hm] at hh; cases hh

/-- Settles O14: an accepted word is answered OK, or fails, and a failure halts in HALT mode and only there. -/
theorem haltModeAnswersNoError : Obligations.HaltModeAnswersNoError := by
  intro w s t h
  obtain ⟨hs, -⟩ := runCommand_cases h
  have hends := runCommand_ends w hs
  rw [h] at hends
  rcases hends.next_cases with ⟨hfault, -, d, hresp, hpos, hhalt⟩ | ⟨e, hf⟩
  · have ht : t.halted = false := hhalt.trans hs
    exact ⟨fun _ => .inl ⟨ht, hfault, d, hresp, hpos, hhalt⟩, fun _ => ht⟩
  · exact ⟨fun hm => .inr (hf.halt_mode hm), fun hm => (hf.error_mode hm).trans hs⟩

/-! ## What a command leaves -/

@[simp] theorem raise_freq (e : Err) (s : State) : (s.raise e).freq = s.freq :=
  raise_keeps State.freq (fun _ _ _ => rfl) (fun _ => rfl) (fun _ => rfl) e s

@[simp] theorem raise_phi (e : Err) (s : State) : (s.raise e).phi = s.phi :=
  raise_keeps State.phi (fun _ _ _ => rfl) (fun _ => rfl) (fun _ => rfl) e s

@[simp] theorem raise_att (e : Err) (s : State) : (s.raise e).att = s.att :=
  raise_keeps State.att (fun _ _ _ => rfl) (fun _ => rfl) (fun _ => rfl) e s

@[simp] theorem raise_pp (e : Err) (s : State) : (s.raise e).pp = s.pp :=
  raise_keeps State.pp (fun _ _ _ => rfl) (fun _ => rfl) (fun _ => rfl) e s

theorem readReg_raise (e : Err) (s : State) {r : Reg} (hr : r ≠ .status) :
    readReg (s.raise e) r = readReg s r := by
  obtain ⟨hregs, -⟩ := failed_raise e s
  exact hregs r (by simpa using hr)

theorem Effect.freq_writer {i : Instr} {s t : State} (h : Effect s i t) (hne : t.freq ≠ s.freq) :
    i = .init ∨ ∃ v, i = .setf v := by
  cases h with
  | init _ => exact .inl rfl
  | setf v _ => exact .inr ⟨v, rfl⟩
  | answer _ _ | fail _ _ | setp _ | seta _ | step _ => exact absurd (by simp) hne

theorem Effect.phi_writer {i : Instr} {s t : State} (h : Effect s i t) (hne : t.phi ≠ s.phi) :
    i = .init ∨ i = .step ∨ ∃ v, i = .setp v := by
  cases h with
  | init _ => exact .inl rfl
  | step _ => exact .inr (.inl rfl)
  | setp v => exact .inr (.inr ⟨v, rfl⟩)
  | answer _ _ | fail _ _ | setf _ _ | seta _ => exact absurd (by simp) hne

theorem Effect.att_writer {i : Instr} {s t : State} (h : Effect s i t) (hne : t.att ≠ s.att) :
    i = .init ∨ ∃ v, i = .seta v := by
  cases h with
  | init _ => exact .inl rfl
  | seta v => exact .inr ⟨v, rfl⟩
  | answer _ _ | fail _ _ | setf _ _ | setp _ | step _ => exact absurd (by simp) hne

theorem Effect.smoother_writer {i : Instr} {s t : State} (h : Effect s i t)
    (hne : (∃ r ∈ smootherRegs, r ≠ .status ∧ readReg t r ≠ readReg s r) ∨ t.pp ≠ s.pp) :
    i = .init ∨ i = .step ∨ ∃ v, i = .setf v ∨ i = .setp v ∨ i = .seta v := by
  have hunchanged : (∀ r, r ≠ .status → readReg t r = readReg s r) → t.pp ≠ s.pp := by
    intro hregs
    rcases hne with ⟨r, -, hr, hrne⟩ | hpp
    · exact absurd (hregs r hr) hrne
    · exact hpp
  cases h with
  | init _ => exact .inl rfl
  | step _ => exact .inr (.inl rfl)
  | setf v _ => exact .inr (.inr ⟨v, .inl rfl⟩)
  | setp v => exact .inr (.inr ⟨v, .inr (.inl rfl)⟩)
  | seta v => exact .inr (.inr ⟨v, .inr (.inr rfl)⟩)
  | answer _ d => exact absurd rfl (hunchanged fun r _ => readReg_respond _ _ _ r)
  | fail _ e => exact absurd (raise_pp e s) (hunchanged fun _ => readReg_raise e s)

/-- Settles O18, from what each command can write and the two endings. -/
theorem onlyTheirCommandsWriteRegisters : Obligations.OnlyTheirCommandsWriteRegisters := by
  intro i s t h
  have he := exec_effect h
  refine ⟨he.freq_writer, he.phi_writer, he.att_writer, he.smoother_writer, fun hne => ?_⟩
  have hends := exec_ends i s
  rw [h] at hends
  rcases hends.next_cases with ⟨-, -, d, -, -, hhalt⟩ | ⟨e, hf⟩
  · exact absurd hhalt hne
  · cases e
    · exact .inl hf
    · exact .inr hf

/-- A next state of a command word keeps the tables, the parameters and the host's list (R47, R87). -/
theorem runCommand_sameFixed {w : CmdWord} {s t : State} (h : runCommand w s = .next t) : SameFixed s t := by
  obtain ⟨hs, -⟩ := runCommand_cases h
  have hends := runCommand_ends w hs
  rw [h] at hends
  exact hends.sameFixed

/-- Settles O19: CFG and ROM_SINE are read from the parameters, which no command writes. -/
theorem noStepWritesTablesOrParameters : Obligations.NoStepWritesTablesOrParameters := by
  intro s t h
  have hfix : SameFixed s t := by
    rcases step_cases h with ⟨w, -, hw⟩ | ⟨-, -, rfl⟩
    · exact runCommand_sameFixed hw
    · exact ⟨rfl, rfl, rfl⟩
  obtain ⟨hparams, hrom, hprog⟩ := hfix
  exact ⟨hparams, hrom, congrArg cfgWord hparams, fun k => by rw [hparams], hprog⟩

/-! ## The ranges of an active schedule -/

/-- Under SAT127 the isqrt unit answers at most 127 (R292). -/
theorem isqrtFn_le_of_sat127 {s : State} (hrom : s.romIsqrt = Config.isqrtRom) (hm : s.params.isqrtOver = .sat127)
    (x : Nat) : isqrtFn s x ≤ 127 := by
  by_cases hx : x < Config.isqrtLimit
  · by_contra hgt
    have hroot := isqrtFn_le_root hrom (hx.trans (by decide : Config.isqrtLimit < 0x10000))
    have hsq : 128 * 128 ≤ isqrtFn s x * isqrtFn s x := Nat.mul_le_mul (by omega) (by omega)
    rw [Config.isqrtLimit] at hx
    omega
  · simp [isqrtFn, hx, hm]

/-- SAMPL stays within the phase bound of a window, FREQ being at least 1 (R41, R289). -/
theorem State.Scheduled.sampl_le {s : State} (h : s.Scheduled) : s.sampl.toNat ≤ 0x6000 :=
  (Nat.le_mul_of_pos_right _ h.moving).trans h.sampl_max

/-- A root of a window length is at most 156, as 157 * 157 exceeds 0x6000 (R40). -/
theorem State.Scheduled.steps_le {s : State} (h : s.Scheduled) (hrom : s.romIsqrt = Config.isqrtRom) :
    s.steps.toNat ≤ 156 := by
  by_contra hgt
  have hroot := isqrtFn_le_root hrom s.sampl.isLt
  rw [← h.steps_root] at hroot
  have hsq : 157 * 157 ≤ s.steps.toNat * s.steps.toNat := Nat.mul_le_mul (by omega) (by omega)
  have := h.sampl_le
  omega

/-- Settles O54: the ranges follow from the relations of an active schedule. -/
theorem scheduleRegistersStayInRange : Obligations.ScheduleRegistersStayInRange := by
  intro s hi hp
  have h := hi.scheduled hp
  have hridx : s.ridx.toNat < s.sampl.toNat := by
    have := h.ridx_from_end
    have := h.steps_le_msize
    have := h.steps_min
    have := h.sampl_min
    omega
  have hquantum : s.val1.toInt = s.val0.toInt + 1 ∨ s.val1.toInt = s.val0.toInt - 1 := by
    have := h.one_quantum
    omega
  refine ⟨h.sampl_min, h.sampl_le, h.steps_min, fun hm => ?_, fun _ => h.steps_le hi.rom, h.steps_le_msize,
    h.asize_lt_steps, hridx, hquantum⟩
  rw [h.steps_root]
  exact isqrtFn_le_of_sat127 hi.rom hm _

/-! ## Runs -/

theorem step_of_fetch {s : State} {w : CmdWord} (h : fetch s = some w) : step s = runCommand w s := by
  rw [step, h]

theorem step_of_halted {s : State} (h : s.halted = true) : step s = .fault .halted := by
  rw [step]
  split
  · exact if_pos h
  · exact runCommand_of_halted _ h

/-- After a command, the host's remaining words are those after it, unless the command halted the block (R49). -/
theorem runCommand_remaining {w : CmdWord} {ws : List CmdWord} {s t : State} (h : runCommand w s = .next t)
    (hs : s.program.drop s.pos = w :: ws) : t.halted = true ∨ t.program.drop t.pos = ws := by
  obtain ⟨-, -, hprog⟩ := runCommand_sameFixed h
  obtain ⟨t', ht', hend⟩ := (runCommand_ends w (runCommand_cases h).1).exists_endsOnce
  rw [h] at ht'
  cases ht'
  rcases hend with ⟨_, _, ⟨-, hpos, -⟩, -⟩ | ⟨-, hhalt, -⟩
  · right
    rw [hprog, hpos, ← List.tail_drop, hs, List.tail_cons]
  · exact .inl hhalt

theorem fetch_of_remaining {s : State} {w : CmdWord} {ws : List CmdWord} (h : s.program.drop s.pos = w :: ws) :
    fetch s = some w := by
  rw [fetch, ← Nat.add_zero s.pos, ← List.getElem?_drop, h, List.getElem?_cons_zero]

theorem run_succ_of_next {M : Host.Core} {s t : M.State} (h : M.step s = .next t) (k : Nat) :
    M.run (k + 1) s = M.run k t := by
  rw [Host.Core.run, h]

theorem run_succ_of_fault {M : Host.Core} {s : M.State} {r : M.Fault} (h : M.step s = .fault r) (k : Nat) :
    M.run (k + 1) s = .fault r := by
  rw [Host.Core.run, h]

/-- Steps over the host's remaining words are the fold of the command function over them, a halted block included. -/
theorem run_eq_runWords (ws : List CmdWord) :
    ∀ s : State, s.halted = true ∨ s.program.drop s.pos = ws →
      Host.Core.run Sys2Proof.core ws.length s = runWords ws s := by
  induction ws with
  | nil => intro s _; rfl
  | cons w ws ih =>
    intro s hs
    cases hh : s.halted with
    | true =>
      rw [runWords, runCommand_of_halted w hh]
      exact run_succ_of_fault (M := Sys2Proof.core) (step_of_halted hh) ws.length
    | false =>
      have hd : s.program.drop s.pos = w :: ws := hs.resolve_left (by simp [hh])
      obtain ⟨t, ht, -⟩ := (runCommand_ends w hh).exists_endsOnce
      have hstep : step s = .next t := (step_of_fetch (fetch_of_remaining hd)).trans ht
      rw [runWords, ht]
      exact (run_succ_of_next (M := Sys2Proof.core) hstep ws.length).trans (ih t (runCommand_remaining ht hd))

/-- Settles O57: the loaded list is what remains at index 0. -/
theorem runIsTheFoldOfCommands : Obligations.RunIsTheFoldOfCommands :=
  fun _ ws => run_eq_runWords ws _ (.inr rfl)

/-- Settles O9: the three branches of a step that is not halted. -/
theorem stepRunsTheDecodedCommand : Obligations.StepRunsTheDecodedCommand := by
  intro s hs
  refine ⟨fun w i hw hd => ?_, fun w e hw hd => ?_, fun hn => ?_⟩
  · rw [step_of_fetch hw]; simp [runCommand, hs, hd]
  · refine ⟨s.raise .eillegal, ?_, failed_raise .eillegal s⟩
    rw [step_of_fetch hw]; simp [runCommand, hs, hd]
  · simp [step, fetch, hn, idle, hs]

/-! ## The registers -/

/-- A bit of a word made from bits is that bit, and false above them. -/
theorem testBit_wordOfBits (bs : List Bool) : ∀ k, (wordOfBits bs).testBit k = bs.getD k false := by
  induction bs with
  | nil => intro k; simp [wordOfBits]
  | cons b bs ih =>
    intro k
    cases k with
    | zero => cases b <;> simp [wordOfBits, Nat.testBit_zero]
    | succ k =>
      have hhalf : wordOfBits (b :: bs) / 2 = wordOfBits bs := by
        cases b <;> simp only [wordOfBits, Bool.toNat_false, Bool.toNat_true] <;> omega
      rw [Nat.testBit_succ, hhalf, ih, List.getD_cons_succ]

theorem getLsbD_ofNat_wordOfBits (bs : List Bool) (h : bs.length ≤ 16) (k : Nat) :
    (BitVec.ofNat 16 (wordOfBits bs)).getLsbD k = bs.getD k false := by
  rw [BitVec.getLsbD_ofNat, testBit_wordOfBits]
  by_cases hk : k < 16
  · simp [hk]
  · simp [hk, List.getElem?_eq_none (show bs.length ≤ k by omega)]

theorem getLsbD_statusWord (s : State) (k : Nat) : (statusWord s).getLsbD k = [s.pp, s.fault].getD k false :=
  getLsbD_ofNat_wordOfBits _ (by simp) k

theorem getLsbD_cfgWord (p : Params) (k : Nat) :
    (cfgWord p).getLsbD k =
      [p.ppEnable, p.rescan, decide (p.isqrtOver = .exact), decide (p.precond = .halt)].getD k false :=
  getLsbD_ofNat_wordOfBits _ (by simp) k

/-- Settles O17: STATUS and CFG are words made from their lists of bits. -/
theorem registerMap : Obligations.RegisterMap := by
  intro s
  simp only [readReg, getLsbD_statusWord, getLsbD_cfgWord]
  refine ⟨rfl, rfl, rfl, fun k hk => ?_, rfl, rfl, by simp, by simp, fun k hk => ?_⟩
  · exact List.getD_eq_default _ _ hk
  · exact List.getD_eq_default _ _ hk

/-- Settles O27: neither a retirement nor a rescan follows the advance. -/
theorem stepAdvancesPhaseAndIndex : Obligations.StepAdvancesPhaseAndIndex := by
  intro s hf hgo hidle
  have hstay : afterAdvance (advance s) = advance s := by
    rcases afterAdvance_cases (advance s) with ⟨hpp, hend, -⟩ | ⟨hpp, hre, -⟩ | ⟨-, h⟩
    · exact absurd hend (hgo hpp)
    · exact absurd hre (by simp [hidle hpp])
    · exact h
  refine ⟨(advance s).respond .ok 0, by simp only [exec, execStep, if_neg hf, hstay], rfl, rfl, fun r hr => ?_,
    ⟨rfl, rfl, rfl⟩, answered_respond _ _ _⟩
  cases r with
  | phi | sidx => simp at hr
  | _ => rfl

/-- Power-on leaves every register 0, and the sample at phase 0 is 0 on a legal table (R371). -/
theorem powerOn_inv {p : Params} (h : ParamsLegal p) : (State.powerOn p).Inv where
  legal := h
  rom := rfl
  freq_max := Nat.zero_le _
  val0_eq := (msineFn_zero h 0).symm
  scheduled := fun hp => Bool.noConfusion hp
  inactive := fun _ => ⟨rfl, rfl, rfl, rfl, rfl, rfl, rfl, rfl⟩
  halted_mode := fun hh => Bool.noConfusion hh

/-- Settles O52: reset is the power-on with the default parameters. -/
theorem resetMeetsTheInvariant : Obligations.ResetMeetsTheInvariant := by
  have hdefault : ParamsLegal Params.default := by unfold ParamsLegal; decide +kernel
  exact ⟨powerOn_inv hdefault, fun _ => powerOn_inv⟩

end Sys2Proof.Machine

/-!
PROOFS, the family of 20_memory.md: commands repeated (R90, R249), ROM_SINE as the engine reads it (R81 to R85, with
41_trig.md R200 to R205 and R211), and ROM_ISQRT as the isqrt unit reads it (R86, with 43_smoother.md R290 to R292).
-/
namespace Sys2Proof.Machine

/-! ## What a REBUILD depends on -/

/-- The two states agree in what REBUILD reads: FREQ, PHI, ATT, the parameters and ROM_ISQRT (R249, R281). -/
structure SameControls (s t : State) : Prop where
  freq : t.freq = s.freq
  phi : t.phi = s.phi
  att : t.att = s.att
  params : t.params = s.params
  rom : t.romIsqrt = s.romIsqrt

/-- LOOKAHEAD gives two states that agree in what it reads the same registers, STATUS.FAULT apart (R286). -/
theorem lookahead_congr {s t : State} (h : SameControls s t) (hp : t.phi0 = s.phi0) (hv : t.val0 = s.val0) :
    SameRegsBut [.status] (lookahead s) (lookahead t) ∧ (lookahead t).pp = (lookahead s).pp := by
  obtain ⟨hfreq, hphi, hatt, hparams, hrom⟩ := h
  have hwin : findWindow t = findWindow s := findWindow_congr hfreq hatt hp hv hparams hrom
  rw [lookahead, lookahead, hwin]
  constructor
  · intro r hr
    cases r with
    | status => simp at hr
    | _ => cases findWindow s <;> simp [readReg, hfreq, hphi, hatt, hparams, hp, hv]
  · cases findWindow s <;> rfl

/-- The registers after a REBUILD depend on FREQ, PHI, ATT, the parameters and ROM_ISQRT alone, STATUS.FAULT apart. -/
theorem rebuild_congr {s t : State} (h : SameControls s t) :
    SameRegsBut [.status] (rebuild s) (rebuild t) ∧ (rebuild t).pp = (rebuild s).pp :=
  lookahead_congr ⟨h.freq, h.phi, h.att, h.params, h.rom⟩ h.phi
    (by simp only [State.setBoundary_val0, h.phi, h.att, h.params])

/-! ## Commands repeated -/

/-- STATUS is its two flags: states that agree in these and in the other registers agree in all. -/
theorem SameRegsBut.sameRegs {s t : State} (h : SameRegsBut [.status] s t) (hpp : t.pp = s.pp)
    (hfault : t.fault = s.fault) : SameRegs s t := by
  intro r
  by_cases hr : r = .status
  · subst hr; simp only [readReg, statusWord, hpp, hfault]
  · exact h r (by simpa using hr)

/-- A second setter on the registers the first one left: the same operands, so the same rebuild. -/
theorem rebuild_respond_again {s t : State} (h : SameControls s t) (hfault : t.fault = s.fault)
    (hhalt : t.halted = s.halted) (d : RspData) :
    SameRegs ((rebuild s).respond .ok d) ((rebuild t).respond .ok d) ∧
      ((rebuild s).respond .ok d).halted = ((rebuild t).respond .ok d).halted := by
  obtain ⟨hregs, hpp⟩ := rebuild_congr h
  refine ⟨fun r => ?_, by simp [hhalt]⟩
  rw [readReg_respond, readReg_respond]
  exact hregs.sameRegs hpp (by simp [hfault]) r

/-- A second failure writes FAULT, and HALTED in HALT mode, which the first has set (R335, R336). -/
theorem raise_again (e : Err) (s : State) :
    SameRegs (s.raise e) ((s.raise e).raise e) ∧ (s.raise e).halted = ((s.raise e).raise e).halted := by
  have h1 := failed_raise e s
  have h2 := failed_raise e (s.raise e)
  obtain ⟨hparams, -, -⟩ := h1.sameFixed
  constructor
  · obtain ⟨-, -, hfault1, -⟩ := h1
    obtain ⟨hregs, hpp, hfault2, -⟩ := h2
    exact hregs.sameRegs hpp (hfault2.trans hfault1.symm)
  · cases hm : s.params.precond with
    | error => exact (h2.error_mode (by rw [hparams, hm])).symm
    | halt =>
      obtain ⟨hhalt1, -⟩ := h1.halt_mode hm
      obtain ⟨hhalt2, -⟩ := h2.halt_mode (by rw [hparams, hm])
      exact hhalt1.trans hhalt2.symm

/-- A command that reads its operands alone and writes no register, twice with one result. -/
theorem finish_again (r : Except Err RspData) (s : State) :
    SameRegs (s.finish r) ((s.finish r).finish r) ∧ (s.finish r).halted = ((s.finish r).finish r).halted := by
  cases r with
  | ok d => exact ⟨fun reg => readReg_respond _ _ _ reg, rfl⟩
  | error e => exact raise_again e s

theorem exec_setf_in_range {f : Word} (h : f.toNat ≤ 0x4000) (s : State) :
    exec (.setf f) s = .next ((rebuild (s.setFreq f)).respond .ok 0) :=
  if_neg (Nat.not_lt.mpr h)

theorem exec_setf_above_limit {f : Word} (h : 0x4000 < f.toNat) (s : State) :
    exec (.setf f) s = .next (s.raise .einval) :=
  if_pos h

/-- Every command but STEP, issued twice, leaves the registers and HALTED as issued once (R90). -/
theorem exec_again {i : Instr} {s t u : State} (hi : i ≠ .step) (ht : exec i s = .next t)
    (hu : exec i t = .next u) : SameRegs t u ∧ t.halted = u.halted := by
  cases i with
  | step => exact absurd rfl hi
  | init =>
    cases ht; cases hu
    refine ⟨fun r => ?_, rfl⟩
    cases r <;> simp [readReg, statusWord]
  | setf v =>
    rcases Nat.lt_or_ge 0x4000 v.toNat with hv | hv
    · rw [exec_setf_above_limit hv] at ht hu
      cases ht; cases hu
      exact raise_again .einval s
    · rw [exec_setf_in_range hv] at ht hu
      cases ht; cases hu
      exact rebuild_respond_again (by constructor <;> simp) (by simp) (by simp) 0
  | setp v =>
    cases ht; cases hu
    exact rebuild_respond_again (by constructor <;> simp) (by simp) (by simp) 0
  | seta v =>
    cases ht; cases hu
    exact rebuild_respond_again (by constructor <;> simp) (by simp) (by simp) 0
  | out | rdreg _ | sine _ | msine _ _ | isqrt _ =>
    cases ht; cases hu
    exact ⟨fun r => readReg_respond _ _ _ r, rfl⟩
  | fxext _ _ | fxshr _ _ | fxu2s _ _ | fxs2u _ _ =>
    cases ht; cases hu
    exact finish_again _ s

/-- Settles O25: each command is repeated on what it left, and a SETF in range is a rebuild on its controls. -/
theorem commandsAreIdempotent : Obligations.CommandsAreIdempotent := by
  refine ⟨fun i s t u hi ht hu => exec_again hi ht hu, ?_⟩
  intro f s s' t t' hf hphi hatt hparams hrom ht ht'
  rw [exec_setf_in_range hf] at ht ht'
  cases ht; cases ht'
  obtain ⟨hregs, hpp⟩ := rebuild_congr (s := s.setFreq f) (t := s'.setFreq f) ⟨rfl, hphi, hatt, hparams, hrom⟩
  refine ⟨fun r hr => ?_, hpp⟩
  rw [readReg_respond, readReg_respond]
  exact hregs r hr

/-! ## The sine from the table -/

theorem sineEntry_fin (p : Params) (i : Fin 256) : sineEntry p i.val = (p.sineLut.get i).toNat := by
  rw [sineEntry, Fin.ofNat_val_eq_self]

/-- The knot after entry i is entry i + 1, or P_LUT_TOP after the last one (R85). -/
theorem nextKnot_eq {p : Params} {i : Fin 256} {hi : Nat}
    (hinner : ∀ h : i.val + 1 < 256, hi = (p.sineLut.get ⟨i.val + 1, h⟩).toNat)
    (hlast : i.val = 255 → hi = p.lutTop.val) : nextKnot p i.val = hi := by
  unfold nextKnot
  split
  · have h : i.val + 1 < 256 := by omega
    rw [hinner h]
    exact sineEntry_fin p ⟨i.val + 1, h⟩
  · exact (hlast (by omega)).symm

/-- At a knot INTERP reads one entry (41_trig.md R204). -/
theorem interp_knot (p : Params) (i : Nat) : interp p (64 * i) = sineEntry p i := by
  rw [interp, lutRem_eq, lutIndex_eq, if_pos (by omega), Nat.mul_div_cancel_left i (by decide)]

/-- Between knots INTERP adds the two floored products (41_trig.md R202, R204). -/
theorem interp_between (p : Params) (i : Nat) {r : Nat} (hpos : 0 < r) (hlt : r < 64) :
    interp p (64 * i + r) =
      sineEntry p i * (0x10000 - 0x400 * r) / 0x10000 + nextKnot p i * (0x400 * r) / 0x10000 := by
  have hrem : (64 * i + r) % 64 = r := by omega
  have hidx : (64 * i + r) / 64 = i := by omega
  rw [interp, lutRem_eq, lutCoef_eq, lutIndex_eq, hrem, hidx, if_neg (by omega), mul16_eq, mul16_eq,
    Nat.mul_comm r]

/-- In the first quadrant the fold is the identity, so the sine is INTERP of the code (41_trig.md R200, R205). -/
theorem sineFn_first_quadrant (p : Params) {f : Nat} (hf : f < 0x4000) :
    sineFn p (BitVec.ofNat 16 f) = ⟨interp p f, false⟩ := by
  have hn : (BitVec.ofNat 16 f).toNat = f := Nat.mod_eq_of_lt (by omega)
  have hne : ∀ c : Word, 0x4000 ≤ c.toNat → BitVec.ofNat 16 f ≠ c := by
    rintro c hc rfl
    omega
  have hfold : fold (BitVec.ofNat 16 f) = ⟨f, false⟩ := by
    rcases fold_cases (BitVec.ofNat 16 f) with ⟨-, h⟩ | ⟨hge, -⟩ | ⟨hge, -⟩ | ⟨hge, -⟩
    · rw [h, hn]
    all_goals omega
  rw [sineFn_folded p (hne _ (by decide)) (hne _ (by decide)), hfold]

/-- Away from the singular phases a folded code lies below a quarter turn (41_trig.md R200). -/
theorem fold_mag_lt {phi : Word} (h1 : phi ≠ 0x4000) (h2 : phi ≠ 0xC000) : (fold phi).mag < 0x4000 := by
  have hn1 : phi.toNat ≠ 0x4000 := fun h => h1 (BitVec.eq_of_toNat_eq h)
  have hn2 : phi.toNat ≠ 0xC000 := fun h => h2 (BitVec.eq_of_toNat_eq h)
  have hlt := phi.isLt
  rcases fold_cases phi with ⟨_, h⟩ | ⟨_, _, h⟩ | ⟨_, _, h⟩ | ⟨_, h⟩ <;> simp only [h] <;> omega

/-- Settles O36: the codes below a quarter turn are their own folds, and every other phase folds to one of them. -/
theorem sineAtKnotsIsTheTableEntry : Obligations.SineAtKnotsIsTheTableEntry := by
  refine ⟨fun p i => ⟨?_, fun r hi hpos hlt hinner hlast => ?_⟩, fun p phi h1 h2 => ?_, fun p => ⟨rfl, rfl⟩⟩
  · rw [sineFn_first_quadrant p (by omega), interp_knot, sineEntry_fin]
  · rw [sineFn_first_quadrant p (by omega), interp_between p i hpos hlt, sineEntry_fin, nextKnot_eq hinner hlast]
  · rw [sineFn_folded p h1 h2]
    exact ⟨rfl, sineFn_first_quadrant p (fold_mag_lt h1 h2)⟩

/-! ## The mirror about a quarter turn -/

/-- The mirror image of a phase strictly inside the first quadrant folds to it (41_trig.md R200). -/
theorem fold_mirror {x : Word} (hpos : 0 < x.toNat) (hlt : x.toNat < 0x4000) : fold (0x8000 - x) = fold x := by
  have hn : (0x8000 - x : Word).toNat = 0x8000 - x.toNat := by bv_omega
  rcases fold_cases x with ⟨_, hx⟩ | ⟨_, _, _⟩ | ⟨_, _, _⟩ | ⟨_, _⟩
  · rcases fold_cases (0x8000 - x) with ⟨_, _⟩ | ⟨_, _, hy⟩ | ⟨_, _, _⟩ | ⟨_, _⟩
    · omega
    · rw [hx, hy, hn, Nat.sub_sub_self (by omega)]
    all_goals omega
  all_goals omega

theorem sineFn_mirror (p : Params) {x : Word} (hpos : 0 < x.toNat) (hle : x.toNat ≤ 0x4000) :
    sineFn p (0x8000 - x) = sineFn p x := by
  rcases Nat.lt_or_eq_of_le hle with hlt | heq
  · rw [sineFn_folded p (by bv_omega) (by bv_omega), sineFn_folded p (by bv_omega) (by bv_omega),
      fold_mirror hpos hlt]
  · obtain rfl : x = 0x4000 := BitVec.eq_of_toNat_eq heq
    rfl

/-- MSINE_FN reads its phase through SINE_FN alone (41_trig.md R206, R207). -/
theorem msineFn_congr {p : Params} {x y : Word} (h : sineFn p x = sineFn p y) (att : Word) :
    msineFn p x att = msineFn p y att := by
  rw [msineFn, msineFn, scaledMag, scaledMag, h]

/-- A sine of magnitude 0 is the sample 0 under either sign (41_trig.md R207). -/
theorem msineFn_of_mag_zero {p : Params} {phi : Word} (h : (sineFn p phi).mag = 0) (att : Word) :
    msineFn p phi att = 0 := by
  have hq : scaledMag p phi att = 0 := by simp [scaledMag, h, mul16_eq]
  rw [msineFn, hq]
  cases (sineFn p phi).neg <;> rfl

/-- Settles O37: at phase 0 the mirror image is the half turn, whose sine is entry 0 with the other sign; elsewhere the
sines are equal. -/
theorem sineMirror : Obligations.SineMirror := by
  intro p x hle
  rcases Nat.eq_zero_or_pos x.toNat with h0 | hpos
  · obtain rfl : x = 0 := BitVec.eq_of_toNat_eq h0
    have hmag : (sineFn p (0x8000 - 0)).mag = sineEntry p 0 := rfl
    refine ⟨rfl, fun hl att => ?_⟩
    rw [msineFn_zero hl, msineFn_of_mag_zero (hmag.trans hl)]
  · have h := sineFn_mirror p hpos hle
    exact ⟨congrArg SignMag.mag h, fun _ att => msineFn_congr h att⟩

/-! ## The isqrt unit's answer -/

/-- With ROM_ISQRT intact the unit answers the root inside the table, and beyond it under EXACT (R290 to R292). -/
theorem isqrtFn_root {s : State} (hrom : s.romIsqrt = Config.isqrtRom) {x : Nat} (hx : x < 0x10000)
    (h : x < 0x4000 ∨ s.params.isqrtOver = .exact) : IsRoot x (isqrtFn s x) := by
  rcases Nat.lt_or_ge x Config.isqrtLimit with hin | hout
  · rw [isqrtFn, if_pos hin, hrom]
    exact isqrtSearch_root hin
  · have hexact : s.params.isqrtOver = .exact := h.resolve_left (Nat.not_lt.mpr hout)
    simp only [isqrtFn, if_neg (Nat.not_lt.mpr hout), hexact]
    exact floorSqrt_root hx

/-- Beyond the table the unit answers 127 under SAT127 (R292). -/
theorem isqrtFn_saturated {s : State} {x : Nat} (hx : 0x4000 ≤ x) (h : s.params.isqrtOver = .sat127) :
    isqrtFn s x = 127 := by
  simp only [isqrtFn, if_neg (Nat.not_lt.mpr hx : ¬ x < Config.isqrtLimit), h]

/-- Settles O48: the answer fits the data word, so the response holds the unit's result. -/
theorem isqrtAnswersTheRoot : Obligations.IsqrtAnswersTheRoot := by
  intro x s hrom
  have hdata : (BitVec.ofNat 32 (isqrtFn s x.toNat)).toNat = isqrtFn s x.toNat :=
    Nat.mod_eq_of_lt ((isqrtFn_le s _).trans_lt (by decide))
  refine ⟨_, _, rfl, readOnly_respond _ s, ?_⟩
  rw [hdata]
  exact ⟨isqrtFn_root hrom x.isLt, isqrtFn_saturated⟩

end Sys2Proof.Machine

/-!
PROOFS, the family of 30_encoding.md: the decoder and the encoder against each other (R111 to R117) and against the
opcode table (R118 to R121), the assembler (R124 to R127), which commands fail (60_exceptions.md R332 to R337), and the
data of the commands that only read (R123).
-/
namespace Sys2Proof

/-! ## Encoding, then decoding -/

theorem decodeN_encodeN (i : Instr) (o : BitVec 4) : decodeN i (encodeN o) = .ok i := by
  simp [decodeN, encodeN_rest]

theorem decodeU16_encodeU16 (mk : Word → Instr) (o : BitVec 4) (x : Word) :
    decodeU16 mk (encodeU16 o x) = .ok (mk x) := by
  simp [decodeU16, encodeU16_field_16, encodeU16_field_0]

theorem decodeAB_encodeAB (mk : Word → Word → Instr) (o : BitVec 4) (x y : Word) :
    decodeAB mk (encodeAB o x y) = .ok (mk x y) := by
  simp [decodeAB, encodeAB_field_48, encodeAB_field_16, encodeAB_field_0, encodeAB_field_32]

theorem decodeR_encodeR (mk : Reg → Instr) (o : BitVec 4) (r : Reg) : decodeR mk (encodeR o r) = .ok (mk r) := by
  simp [decodeR, encodeR_field_36, encodeR_field_0, encodeR_field_32]

theorem decodeDesc_encodeFX (o : BitVec 4) (d : FxDesc) (a : BitVec 32) : decodeDesc (encodeFX o d a) = d := by
  have hsigned : decide (BitVec.ofBool d.signed = 1) = d.signed := by cases d.signed <;> rfl
  simp only [decodeDesc, encodeFX_field_59, encodeFX_field_54, encodeFX_field_49, encodeFX_field_44,
    encodeFX_field_42, encodeFX_field_40, CWidth.ofCode_code, hsigned]

theorem decodeFX_encodeFX (mk : FxDesc → BitVec 32 → Instr) (o : BitVec 4) (d : FxDesc) (a : BitVec 32) :
    decodeFX mk (encodeFX o d a) = .ok (mk d a) := by
  simp [decodeFX, encodeFX_field_32, encodeFX_field_0, decodeDesc_encodeFX]

/-- The opcode field selects the reader of the format the word was written in (R111). -/
theorem decode_encode (i : Instr) : decode (encode i) = .ok i := by
  cases i with
  | init | out | step => simp [encode, decode, encodeN_opc, decodeN_encodeN]
  | setf _ | setp _ | seta _ | sine _ | isqrt _ => simp [encode, decode, encodeU16_field_60, decodeU16_encodeU16]
  | msine _ _ => simp [encode, decode, encodeAB_field_60, decodeAB_encodeAB]
  | rdreg _ => simp [encode, decode, encodeR_field_60, decodeR_encodeR]
  | fxext _ _ | fxshr _ _ | fxu2s _ _ | fxs2u _ _ => simp [encode, decode, encodeFX_field_60, decodeFX_encodeFX]

/-- Settles O1: each format's reader takes back the fields its layout has placed. -/
theorem decodeUndoesEncode : Obligations.DecodeUndoesEncode := decode_encode

/-! ## Decoding, then encoding: a word is its opcode, its operand fields and its reserved zeros -/

theorem field_eq_zero_iff (w : CmdWord) (lo len : Nat) : field w lo len = 0 ↔ w.toNat / 2 ^ lo % 2 ^ len = 0 := by
  simpa using field_eq_iff w lo len 0

theorem encodeN_of_fields {w : CmdWord} (h : field w 0 60 = 0) : encodeN (field w 60 4) = w := by
  apply BitVec.eq_of_toNat_eq
  rw [field_eq_zero_iff] at h
  rw [toNat_encodeN, toNat_field]
  omega

theorem encodeU16_of_fields {w : CmdWord} (h : field w 16 44 = 0) :
    encodeU16 (field w 60 4) (field w 0 16) = w := by
  apply BitVec.eq_of_toNat_eq
  rw [field_eq_zero_iff] at h
  rw [toNat_encodeU16, toNat_field, toNat_field]
  omega

theorem encodeAB_of_fields {w : CmdWord} (hhigh : field w 48 12 = 0) (hlow : field w 16 16 = 0) :
    encodeAB (field w 60 4) (field w 0 16) (field w 32 16) = w := by
  apply BitVec.eq_of_toNat_eq
  rw [field_eq_zero_iff] at hhigh hlow
  rw [toNat_encodeAB, toNat_field, toNat_field, toNat_field]
  omega

theorem encodeR_of_fields {w : CmdWord} (hhigh : field w 36 24 = 0) (hlow : field w 0 32 = 0) :
    encodeR (field w 60 4) (Reg.ofIndex (field w 32 4)) = w := by
  apply BitVec.eq_of_toNat_eq
  rw [field_eq_zero_iff] at hhigh hlow
  rw [toNat_encodeR, Reg.index_ofIndex, toNat_field, toNat_field]
  omega

theorem ofBool_field_one (w : CmdWord) (lo : Nat) :
    BitVec.ofBool (decide (field w lo 1 = 1)) = field w lo 1 := by
  generalize field w lo 1 = b
  revert b; decide

theorem encodeFX_of_fields {w : CmdWord} (h : field w 32 8 = 0) :
    encodeFX (field w 60 4) (decodeDesc w) (field w 0 32) = w := by
  have hsigned : (decodeDesc w).signed.toNat = w.toNat / 2 ^ 59 % 2 ^ 1 := by
    rw [← toNat_field, ← ofBool_field_one, BitVec.toNat_ofBool]; rfl
  apply BitVec.eq_of_toNat_eq
  rw [field_eq_zero_iff] at h
  rw [toNat_encodeFX, hsigned]
  simp only [decodeDesc, CWidth.code_ofCode, toNat_field]
  omega

section
variable {w : CmdWord} {o : BitVec 4} {i : Instr}

/-- A reader accepts when its reserved bits are 0, and then it answers its instruction. -/
theorem ok_of_guarded {c : Prop} [Decidable c] {e : DecodeReject} {i j : Instr}
    (h : (if c then Except.ok i else .error e) = .ok j) : c ∧ i = j := by
  split at h
  · cases h; exact ⟨‹_›, rfl⟩
  · cases h

theorem encode_of_decodeN {mk : Instr} (hmk : encode mk = encodeN o)
    (ho : (field w 60 4).toNat = o.toNat) (h : decodeN mk w = .ok i) : encode i = w := by
  obtain rfl := BitVec.eq_of_toNat_eq ho
  obtain ⟨hrest, rfl⟩ := ok_of_guarded h
  exact hmk.trans (encodeN_of_fields hrest)

theorem encode_of_decodeU16 {mk : Word → Instr} (hmk : ∀ x, encode (mk x) = encodeU16 o x)
    (ho : (field w 60 4).toNat = o.toNat) (h : decodeU16 mk w = .ok i) : encode i = w := by
  obtain rfl := BitVec.eq_of_toNat_eq ho
  obtain ⟨hrest, rfl⟩ := ok_of_guarded h
  exact (hmk _).trans (encodeU16_of_fields hrest)

theorem encode_of_decodeAB {mk : Word → Word → Instr} (hmk : ∀ x y, encode (mk x y) = encodeAB o x y)
    (ho : (field w 60 4).toNat = o.toNat) (h : decodeAB mk w = .ok i) : encode i = w := by
  obtain rfl := BitVec.eq_of_toNat_eq ho
  obtain ⟨⟨hhigh, hlow⟩, rfl⟩ := ok_of_guarded h
  exact (hmk _ _).trans (encodeAB_of_fields hhigh hlow)

theorem encode_of_decodeR {mk : Reg → Instr} (hmk : ∀ r, encode (mk r) = encodeR o r)
    (ho : (field w 60 4).toNat = o.toNat) (h : decodeR mk w = .ok i) : encode i = w := by
  obtain rfl := BitVec.eq_of_toNat_eq ho
  obtain ⟨⟨hhigh, hlow⟩, rfl⟩ := ok_of_guarded h
  exact (hmk _).trans (encodeR_of_fields hhigh hlow)

theorem encode_of_decodeFX {mk : FxDesc → BitVec 32 → Instr} (hmk : ∀ d a, encode (mk d a) = encodeFX o d a)
    (ho : (field w 60 4).toNat = o.toNat) (h : decodeFX mk w = .ok i) : encode i = w := by
  obtain rfl := BitVec.eq_of_toNat_eq ho
  obtain ⟨hrest, rfl⟩ := ok_of_guarded h
  exact (hmk _ _).trans (encodeFX_of_fields hrest)

end

/-- Settles O2: the opcode of an accepted word is the one its reader's instruction is encoded with. -/
theorem encodeUndoesDecode : Obligations.EncodeUndoesDecode := by
  intro w i h
  unfold decode at h
  split at h
  next ho => exact encode_of_decodeN (o := 0x1) rfl ho h
  next ho => exact encode_of_decodeU16 (o := 0x2) (fun _ => rfl) ho h
  next ho => exact encode_of_decodeU16 (o := 0x3) (fun _ => rfl) ho h
  next ho => exact encode_of_decodeU16 (o := 0x4) (fun _ => rfl) ho h
  next ho => exact encode_of_decodeN (o := 0x5) rfl ho h
  next ho => exact encode_of_decodeN (o := 0x6) rfl ho h
  next ho => exact encode_of_decodeR (o := 0x7) (fun _ => rfl) ho h
  next ho => exact encode_of_decodeU16 (o := 0x8) (fun _ => rfl) ho h
  next ho => exact encode_of_decodeAB (o := 0x9) (fun _ _ => rfl) ho h
  next ho => exact encode_of_decodeFX (o := 0xA) (fun _ _ => rfl) ho h
  next ho => exact encode_of_decodeFX (o := 0xB) (fun _ _ => rfl) ho h
  next ho => exact encode_of_decodeFX (o := 0xC) (fun _ _ => rfl) ho h
  next ho => exact encode_of_decodeFX (o := 0xD) (fun _ _ => rfl) ho h
  next ho => exact encode_of_decodeU16 (o := 0xE) (fun _ => rfl) ho h
  next => cases h

theorem decode_ok_iff {w : CmdWord} {i : Instr} : decode w = .ok i ↔ encode i = w :=
  ⟨encodeUndoesDecode w i, fun h => h ▸ decode_encode i⟩

/-- Settles O5: each word is the encoding of its command. -/
theorem exampleWordsDecode : Obligations.ExampleWordsDecode := by
  unfold Obligations.ExampleWordsDecode
  simp only [decode_ok_iff]
  decide

/-! ## The opcode table: a word matches the row of the command it encodes, and no other -/

/-- Below the opcode a word of format N is 0 (R112). -/
theorem encodeN_field_below (o : BitVec 4) {lo len : Nat} (h : lo + len ≤ 60) : field (encodeN o) lo len = 0 := by
  obtain ⟨k, hk⟩ := Nat.exists_eq_add_of_le h
  have hsplit : o.toNat * 2 ^ (lo + len + k) = o.toNat * 2 ^ k * 2 ^ len * 2 ^ lo := by ring
  rw [field_eq_zero_iff, toNat_encodeN, hk, hsplit, Nat.mul_div_cancel _ (Nat.two_pow_pos lo), Nat.mul_mod_left]

theorem encodeN_of_masked {o : BitVec 4} {w : CmdWord} (h : w &&& 0xFFFFFFFFFFFFFFFF = encodeN o) :
    encodeN o = w := by
  rw [← h]; exact BitVec.and_allOnes

theorem encodeU16_of_masked {o : BitVec 4} {w : CmdWord} (h : w &&& 0xFFFFFFFFFFFF0000 = encodeN o) :
    ∃ x, encodeU16 o x = w := by
  obtain ⟨hopc, hrest⟩ := (matches_u16 (by clear h; revert o; decide) w).mp h
  rw [encodeN_opc] at hopc
  rw [encodeN_field_below o (by decide)] at hrest
  exact ⟨_, hopc ▸ encodeU16_of_fields hrest⟩

theorem encodeAB_of_masked {o : BitVec 4} {w : CmdWord} (h : w &&& 0xFFFF0000FFFF0000 = encodeN o) :
    ∃ x y, encodeAB o x y = w := by
  obtain ⟨hopc, hhigh, hlow⟩ := (matches_ab (by clear h; revert o; decide) w).mp h
  rw [encodeN_opc] at hopc
  rw [encodeN_field_below o (by decide)] at hhigh hlow
  exact ⟨_, _, hopc ▸ encodeAB_of_fields hhigh hlow⟩

theorem encodeR_of_masked {o : BitVec 4} {w : CmdWord} (h : w &&& 0xFFFFFFF0FFFFFFFF = encodeN o) :
    ∃ r, encodeR o r = w := by
  obtain ⟨hopc, hhigh, hlow⟩ := (matches_r (by clear h; revert o; decide) w).mp h
  rw [encodeN_opc] at hopc
  rw [encodeN_field_below o (by decide)] at hhigh hlow
  exact ⟨_, hopc ▸ encodeR_of_fields hhigh hlow⟩

theorem encodeFX_of_masked {o : BitVec 4} {w : CmdWord} (h : w &&& 0xF00000FF00000000 = encodeN o) :
    ∃ d a, encodeFX o d a = w := by
  obtain ⟨hopc, hrest⟩ := (matches_fx (by clear h; revert o; decide) w).mp h
  rw [encodeN_opc] at hopc
  rw [encodeN_field_below o (by decide)] at hrest
  exact ⟨_, _, hopc ▸ encodeFX_of_fields hrest⟩

/-- A word that matches a row encodes a command of the row's mnemonic (R121). -/
theorem exists_encode_of_row {w : CmdWord} : ∀ r ∈ opcodeTable, w &&& r.mask = r.value →
    ∃ i : Instr, r.mnemonic = i.mnemonic ∧ encode i = w := by
  simp only [opcodeTable, List.forall_mem_cons]
  exact
    ⟨fun h => ⟨.init, rfl, encodeN_of_masked (o := 0x1) h⟩,
      fun h => (encodeU16_of_masked (o := 0x2) h).elim fun x hx => ⟨.setf x, rfl, hx⟩,
      fun h => (encodeU16_of_masked (o := 0x3) h).elim fun x hx => ⟨.setp x, rfl, hx⟩,
      fun h => (encodeU16_of_masked (o := 0x4) h).elim fun x hx => ⟨.seta x, rfl, hx⟩,
      fun h => ⟨.out, rfl, encodeN_of_masked (o := 0x5) h⟩,
      fun h => ⟨.step, rfl, encodeN_of_masked (o := 0x6) h⟩,
      fun h => (encodeR_of_masked (o := 0x7) h).elim fun r hr => ⟨.rdreg r, rfl, hr⟩,
      fun h => (encodeU16_of_masked (o := 0x8) h).elim fun x hx => ⟨.sine x, rfl, hx⟩,
      fun h => (encodeAB_of_masked (o := 0x9) h).elim fun x ⟨y, hxy⟩ => ⟨.msine x y, rfl, hxy⟩,
      fun h => (encodeFX_of_masked (o := 0xA) h).elim fun d ⟨a, hda⟩ => ⟨.fxext d a, rfl, hda⟩,
      fun h => (encodeFX_of_masked (o := 0xB) h).elim fun d ⟨a, hda⟩ => ⟨.fxshr d a, rfl, hda⟩,
      fun h => (encodeFX_of_masked (o := 0xC) h).elim fun d ⟨a, hda⟩ => ⟨.fxu2s d a, rfl, hda⟩,
      fun h => (encodeFX_of_masked (o := 0xD) h).elim fun d ⟨a, hda⟩ => ⟨.fxs2u d a, rfl, hda⟩,
      fun h => (encodeU16_of_masked (o := 0xE) h).elim fun x hx => ⟨.isqrt x, rfl, hx⟩,
      fun _ hr => absurd hr List.not_mem_nil⟩

theorem row_of_encode : ∀ i : Instr, Laws.RowMatch.Statement i
  | .init => Laws.RowMatch.init
  | .setf x => Laws.RowMatch.setf x
  | .setp x => Laws.RowMatch.setp x
  | .seta x => Laws.RowMatch.seta x
  | .out => Laws.RowMatch.out
  | .step => Laws.RowMatch.step
  | .rdreg r => Laws.RowMatch.rdreg r
  | .sine x => Laws.RowMatch.sine x
  | .msine x y => Laws.RowMatch.msine x y
  | .fxext d a => Laws.RowMatch.fxext d a
  | .fxshr d a => Laws.RowMatch.fxshr d a
  | .fxu2s d a => Laws.RowMatch.fxu2s d a
  | .fxs2u d a => Laws.RowMatch.fxs2u d a
  | .isqrt x => Laws.RowMatch.isqrt x

/-- The row of an accepted word. -/
theorem row_of_decode {w : CmdWord} {i : Instr} (h : decode w = .ok i) :
    ∃ r ∈ opcodeTable, r.mnemonic = i.mnemonic ∧ w &&& r.mask = r.value := by
  obtain rfl := decode_ok_iff.mp h
  exact row_of_encode i

theorem eq_of_mnemonic_eq : ∀ r ∈ opcodeTable, ∀ r' ∈ opcodeTable, r.mnemonic = r'.mnemonic → r = r' := by
  decide

theorem eq_of_opcode_eq :
    ∀ r ∈ opcodeTable, ∀ r' ∈ opcodeTable, field r.value 60 4 = field r'.value 60 4 → r = r' := by
  decide

theorem filter_mnemonic (i : Instr) :
    (opcodeTable.filter fun r => r.mnemonic = i.mnemonic).map (fun r => r.mnemonic) = [i.mnemonic] := by
  cases i <;> rfl

/-- An accepted word matches the rows of its command's mnemonic. -/
theorem matchesWord_iff {w : CmdWord} {i : Instr} (h : decode w = .ok i) {r : TableRow} (hr : r ∈ opcodeTable) :
    r.matchesWord w = true ↔ r.mnemonic = i.mnemonic := by
  rw [TableRow.matchesWord, decide_eq_true_iff]
  constructor
  · intro hm
    obtain ⟨j, hj, he⟩ := exists_encode_of_row r hr hm
    rw [decode_ok_iff.mpr he] at h
    cases h
    exact hj
  · intro hm
    obtain ⟨r', hr', hm', hw⟩ := row_of_decode h
    rwa [eq_of_mnemonic_eq r hr r' hr' (hm.trans hm'.symm)]

/-- A rejected word matches no row. -/
theorem not_matchesWord {w : CmdWord} {e : DecodeReject} (h : decode w = .error e) {r : TableRow}
    (hr : r ∈ opcodeTable) : ¬ r.matchesWord w = true := by
  rw [TableRow.matchesWord, decide_eq_true_iff]
  intro hm
  obtain ⟨j, -, he⟩ := exists_encode_of_row r hr hm
  rw [decode_ok_iff.mpr he] at h
  cases h

/-- A word that matches a row has the row's opcode: every mask covers the opcode field. -/
theorem opcode_of_row {w : CmdWord} {r : TableRow} (hr : r ∈ opcodeTable) (h : w &&& r.mask = r.value) :
    field w 60 4 = field r.value 60 4 := by
  have hmask : ∀ r ∈ opcodeTable, field r.mask 60 4 = 0xF := by decide
  have hand : field (w &&& r.mask) 60 4 = field w 60 4 &&& field r.mask 60 4 := BitVec.extractLsb'_and
  rw [← h, hand, hmask r hr]
  exact BitVec.and_allOnes.symm

end Sys2Proof

namespace Sys2Proof.Machine

/-- A rejected word fails with EILLEGAL on a block that is not halted (60_exceptions.md R332, R337). -/
theorem runCommand_rejected {w : CmdWord} {e : DecodeReject} (h : decode w = .error e) {s : State}
    (hs : s.halted = false) : ∃ t, runCommand w s = .next t ∧ Failed .eillegal s t :=
  ⟨s.raise .eillegal, by simp [runCommand, hs, h], failed_raise .eillegal s⟩

/-- Settles O3: the rows a word matches are those of its command's mnemonic, and mnemonics are distinct. -/
theorem decodingMatchesTheTable : Obligations.DecodingMatchesTheTable := by
  intro w
  cases h : decode w with
  | ok i =>
    refine .inl ⟨i, rfl, ?_⟩
    rw [← filter_mnemonic i, List.filter_congr fun r hr => ?_]
    rw [Bool.eq_iff_iff, matchesWord_iff h hr, decide_eq_true_iff]
  | error e =>
    exact .inr ⟨⟨e, rfl⟩, List.filter_eq_nil_iff.mpr fun r hr => not_matchesWord h hr,
      fun s hs => runCommand_rejected h hs⟩

/-- Settles O4: an accepted word has no reserved opcode and matches the one row of its opcode. -/
theorem reservedWordsRaiseIllegal : Obligations.ReservedWordsRaiseIllegal := by
  intro w s hs hres
  cases h : decode w with
  | error e => exact runCommand_rejected h hs
  | ok i =>
    exfalso
    obtain ⟨hne0, hneF⟩ := decode_ok_opcode h
    rcases hres with h0 | hF | ⟨r, hr, hopc, hne⟩
    · exact hne0 h0
    · exact hneF hF
    · obtain ⟨r', hr', -, hm⟩ := row_of_decode h
      obtain rfl := eq_of_opcode_eq r hr r' hr' (hopc.trans (opcode_of_row hr' hm))
      exact hne hm

/-! ## Which commands fail (60_exceptions.md R332 to R337) -/

section
variable {legal : Bool} {conv : Int → Option Int} {d : FxDesc} {a : BitVec 32}

/-- An illegal descriptor, or A32 bits above the container, are EILLEGAL whatever the value (R337). -/
theorem fxResult_illegal (h : (legal && fxOperandFits d a) = false) : fxResult legal conv d a = .error .eillegal := by
  cases legal with
  | false => rfl
  | true =>
    have hfits : fxOperandFits d a = false := h
    simp [fxResult, fxRead, hfits]

theorem fxRead_canonical (hfits : fxOperandFits d a = true) (hc : FxCanonical d a) : fxRead d a = .ok (fxCode d a) := by
  rw [fxRead, if_pos hfits]
  exact if_pos hc

theorem fxRead_noncanonical (hfits : fxOperandFits d a = true) (hc : ¬ FxCanonical d a) :
    fxRead d a = .error .einval := by
  rw [fxRead, if_pos hfits]
  exact if_neg hc

theorem fxResult_noncanonical (h : (legal && fxOperandFits d a) = true) (hc : ¬ FxCanonical d a) :
    fxResult legal conv d a = .error .einval := by
  obtain ⟨hlegal, hfits⟩ := Bool.and_eq_true_iff.mp h
  simp only [fxResult, if_pos hlegal, fxRead_noncanonical hfits hc]

theorem fxResult_refused (h : (legal && fxOperandFits d a) = true) (hc : FxCanonical d a)
    (hconv : conv (fxCode d a) = none) : fxResult legal conv d a = .error .einval := by
  obtain ⟨hlegal, hfits⟩ := Bool.and_eq_true_iff.mp h
  simp only [fxResult, if_pos hlegal, fxRead_canonical hfits hc, hconv]

theorem fxResult_converted (h : (legal && fxOperandFits d a) = true) (hc : FxCanonical d a) {c : Int}
    (hconv : conv (fxCode d a) = some c) : fxResult legal conv d a = .ok (fxWrite d.cd c) := by
  obtain ⟨hlegal, hfits⟩ := Bool.and_eq_true_iff.mp h
  simp only [fxResult, if_pos hlegal, fxRead_canonical hfits hc, hconv]

end

theorem next_finish_error {r : Except Err RspData} {e : Err} (h : r = .error e) (s : State) :
    (.next (s.finish r) : Host.Outcome State Fault Refusal) = .next (s.raise e) := by
  rw [h]; rfl

/-- An ill-formed instruction raises EILLEGAL (R332). -/
theorem exec_illformed {i : Instr} (h : i.wellFormed = false) (s : State) : exec i s = .next (s.raise .eillegal) := by
  cases i with
  | fxext _ _ | fxshr _ _ | fxu2s _ _ | fxs2u _ _ => exact next_finish_error (fxResult_illegal h) s
  | _ => cases h

/-- A source that is not canonical raises EINVAL (R161, R333). -/
theorem exec_noncanonical {i : Instr} {d : FxDesc} {a : BitVec 32}
    (hi : i = .fxext d a ∨ i = .fxshr d a ∨ i = .fxu2s d a ∨ i = .fxs2u d a) (hwf : i.wellFormed = true)
    (hc : ¬ FxCanonical d a) (s : State) : exec i s = .next (s.raise .einval) := by
  rcases hi with rfl | rfl | rfl | rfl <;> exact next_finish_error (fxResult_noncanonical hwf hc) s

/-- A negative source of FXS2U raises EINVAL (R166, R333). -/
theorem exec_fxs2u_negative {d : FxDesc} {a : BitVec 32} (hwf : (Instr.fxs2u d a).wellFormed = true)
    (hc : FxCanonical d a) (hneg : fxCode d a < 0) (s : State) :
    exec (.fxs2u d a) s = .next (s.raise .einval) :=
  next_finish_error (fxResult_refused hwf hc (if_pos hneg)) s

/-- An outcome that is a response OK over register writes. -/
def EndsOk (s : State) (o : Host.Outcome State Fault Refusal) : Prop :=
  ∃ (u : State) (d : RspData), o = .next (u.respond .ok d) ∧ SameOutside s u

theorem endsOk_respond (d : RspData) (s : State) : EndsOk s (.next (s.respond .ok d)) := ⟨s, d, rfl, .refl s⟩

theorem endsOk_fx {legal : Bool} {conv : Int → Option Int} {d : FxDesc} {a : BitVec 32} {c : Int}
    (h : (legal && fxOperandFits d a) = true) (hc : FxCanonical d a) (hconv : conv (fxCode d a) = some c) (s : State) :
    EndsOk s (.next (s.finish (fxResult legal conv d a))) := by
  rw [fxResult_converted h hc hconv]
  exact endsOk_respond _ s

/-- With every check passed, a command ends with OK. -/
theorem exec_endsOk {i : Instr} (hwf : i.wellFormed = true) (hsetf : ∀ v, i = .setf v → v.toNat ≤ 0x4000)
    (hcanon : ∀ d a, (i = .fxext d a ∨ i = .fxshr d a ∨ i = .fxu2s d a ∨ i = .fxs2u d a) → FxCanonical d a)
    (hsign : ∀ d a, i = .fxs2u d a → 0 ≤ fxCode d a) (s : State) : EndsOk s (exec i s) := by
  cases i with
  | setf v => rw [exec_setf_in_range (hsetf v rfl)]; exact ⟨_, _, rfl, by simp [SameOutside]⟩
  | init | setp _ | seta _ => exact ⟨_, _, rfl, by simp [SameOutside]⟩
  | step =>
    rw [exec, execStep]
    split
    · exact endsOk_respond _ s
    · exact ⟨_, _, rfl, by simp [SameOutside]⟩
  | out | rdreg _ | sine _ | msine _ _ | isqrt _ => exact endsOk_respond _ s
  | fxext d a => exact endsOk_fx (conv := fxextConv d) hwf (hcanon d a (by simp)) rfl s
  | fxshr d a => exact endsOk_fx (conv := fxshrConv d) hwf (hcanon d a (by simp)) rfl s
  | fxu2s d a => exact endsOk_fx (conv := fxu2sConv) hwf (hcanon d a (by simp)) rfl s
  | fxs2u d a =>
    have hconv : fxs2uConv (fxCode d a) = some (2 * fxCode d a) := if_neg (Int.not_lt.mpr (hsign d a rfl))
    exact endsOk_fx hwf (hcanon d a (by simp)) hconv s

/-- Settles O12: the checks of R337 one after another, and OK where all pass. -/
theorem errorsAreExactlyThese : Obligations.ErrorsAreExactlyThese := by
  intro i s t ht
  have hfailed : ∀ {e : Err}, exec i s = .next (s.raise e) → Failed e.status s t := by
    intro e he
    rw [ht] at he
    cases he
    exact failed_raise e s
  refine ⟨fun h => hfailed (exec_illformed h s), ?_, ?_⟩
  · rintro (⟨v, rfl, hv⟩ | ⟨hwf, d, a, hi, hc⟩ | ⟨hwf, d, a, rfl, hc, hneg⟩)
    · exact hfailed (exec_setf_above_limit hv s)
    · exact hfailed (exec_noncanonical hi hwf hc s)
    · exact hfailed (exec_fxs2u_negative hwf hc hneg s)
  · rintro ⟨hwf, hsetf, hcanon, hsign⟩
    obtain ⟨u, d, ho, hfault, hhalt, -, -, -, hpos, hresp⟩ := exec_endsOk hwf hsetf hcanon hsign s
    rw [ht] at ho
    cases ho
    exact ⟨hfault, d, by simp [hresp], by simp [hpos], hhalt⟩

/-! ## The commands that only read -/

/-- Settles O16: the register zero-extended is the register. -/
theorem rdregReadsTheRegister : Obligations.RdregReadsTheRegister := by
  intro r s
  exact ⟨_, _, rfl, readOnly_respond _ s, BitVec.toNat_setWidth_of_le (by decide)⟩

theorem toNat_sampleData (v : Int) : (sampleData v).toNat = (bits16 v).toNat :=
  BitVec.toNat_setWidth_of_le (by decide)

/-- sint_16 of a pattern is its signed reading (00_scope.md R14). -/
theorem sintOf_toNat (b : Word) : sintOf 16 b.toNat = b.toInt := by
  rw [sintOf, BitVec.toInt_eq_toNat_cond]
  split <;> split <;> omega

/-- The response data of a sample hold it as a 16-bit pattern (R123). -/
theorem sampleData_holds {v : Int} (h : -0x8000 ≤ v ∧ v ≤ 0x7FFF) :
    (sampleData v).toNat < 0x10000 ∧ sintOf 16 (sampleData v).toNat = v := by
  rw [toNat_sampleData, sintOf_toNat, toInt_bits16 h]
  exact ⟨(bits16 v).isLt, rfl⟩

/-- Settles O34: a sample fits its pattern. -/
theorem msineAnswersTheSample : Obligations.MsineAnswersTheSample :=
  fun _ _ s => ⟨_, _, rfl, readOnly_respond _ s, sampleData_holds (msineFn_range _ _ _)⟩

/-- Settles O33: the magnitude fits the seventeen bits below the sign. -/
theorem sineAnswersSignAndMagnitude : Obligations.SineAnswersSignAndMagnitude := by
  intro phi s
  refine ⟨_, _, rfl, readOnly_respond _ s, ?_⟩
  have hmag : (sineFn s.params phi).mag ≤ 0x10000 := by
    rcases sineFn_mag_cases s.params phi with ⟨-, h⟩ | ⟨-, -, h⟩ <;> omega
  have hneg := Bool.toNat_le (sineFn s.params phi).neg
  rw [sineData, BitVec.toNat_ofNat]
  omega

/-- The sample OUT answers is a 16-bit value: MSINE_FN's or a boundary register's (R245, R298). -/
theorem outputSample_range (s : State) : -0x8000 ≤ outputSample s ∧ outputSample s ≤ 0x7FFF := by
  have hword : ∀ b : Word, -0x8000 ≤ b.toInt ∧ b.toInt ≤ 0x7FFF :=
    fun b => ⟨BitVec.le_toInt b, Int.le_of_lt_add_one (BitVec.toInt_lt (x := b))⟩
  unfold outputSample tiledSample
  split
  · split
    · exact hword s.val1
    · exact hword s.val0
  · exact msineFn_range _ _ _

/-- Settles O30: the three cases are the branches of the sample, whose value fits its pattern. -/
theorem outAnswersTheSample : Obligations.OutAnswersTheSample := by
  intro s
  refine ⟨_, outputSample s, rfl, readOnly_respond _ s, fun hpp => ?_, fun hpp ht => ?_, fun hpp ht => ?_,
    sampleData_holds (outputSample_range s)⟩
  · simp [outputSample, hpp, directAt]
  · simp [outputSample, hpp, tiledSample, ht]
  · simp [outputSample, hpp, tiledSample, ht]

/-! ## The assembler -/

theorem immediate_fits {width n : Nat} {a : String} (h : numberOf a.toList = some n) (hn : n < 2 ^ width) :
    immediate width a = some (BitVec.ofNat width n) := by
  rw [immediate_of_number h, if_pos hn]

theorem immediate_too_large {width n : Nat} {a : String} (h : numberOf a.toList = some n) (hn : 2 ^ width ≤ n) :
    immediate width a = none := by
  rw [immediate_of_number h, if_neg (Nat.not_lt.mpr hn)]

/-- A line whose one operand is no 16-bit immediate, and no register, is an assembly error (R124). -/
theorem assembleOne_none {m a : String} (hm : m ≠ "RDREG") (h : immediate 16 a = none) : assembleOne m a = none := by
  unfold assembleOne
  split
  case h_6 => exact absurd rfl hm
  all_goals simp [h]

/-- Both operands of a line of two are 16-bit immediates (R114, R124). -/
theorem assembleTwo_none {a b : String} (h : immediate 16 a = none ∨ immediate 16 b = none) (m : String) :
    assembleTwo m a b = none := by
  unfold assembleTwo
  split
  · rcases h with h | h
    · rw [h]
    · rw [h]; cases immediate 16 a <;> rfl
  · rfl

/-- Settles O6: a number is an immediate of the widths it fits and of no other. -/
theorem assemblerNeverTruncates : Obligations.AssemblerNeverTruncates := by
  intro a b n k ha hb
  refine ⟨fun hn => ?_, fun hn => ?_, fun hn => ?_, fun hn => ?_, fun hn m src dst f g hf hg => ?_,
    fun hn m src dst => ?_⟩
  · have hia := immediate_fits (width := 16) ha hn
    have hone : ∀ mk : Word → Instr, (immediate 16 a).map (fun v => [mk v]) = some [mk (BitVec.ofNat 16 n)] :=
      fun mk => by rw [hia]; rfl
    refine ⟨hone .setf, hone .setp, hone .seta, hone .sine, hone .isqrt, fun hk => ?_⟩
    have hib := immediate_fits (width := 16) hb hk
    simp [assembleTokens, assembleTwo, hia, hib]
  · have hia := immediate_too_large (width := 16) ha hn
    exact ⟨fun m hm => assembleOne_none hm hia,
      fun m => ⟨assembleTwo_none (.inl hia) m, assembleTwo_none (.inr hia) m⟩⟩
  · have hreg : registerOf a = some (Reg.ofIndex (BitVec.ofNat 4 n)) := by
      rw [registerOf_number ha, immediate_fits ha hn]; rfl
    simp [assembleTokens, assembleOne, hreg]
  · have hreg : registerOf a = none := by
      rw [registerOf_number ha, immediate_too_large ha hn]; rfl
    simp [assembleTokens, assembleOne, hreg]
  · simp [assembleTokens, assembleConversion, hf, hg, immediate_fits (width := 32) ha hn]
  · simp only [assembleTokens, assembleConversion, immediate_too_large (width := 32) ha hn]
    cases formatOf src <;> cases formatOf dst <;> rfl

/-! ## Format operands (R125) -/

theorem fitted_eq_some {width n : Nat} {v : BitVec width} :
    fitted width (some n) = some v ↔ n < 2 ^ width ∧ v = BitVec.ofNat width n := by
  rw [fitted]
  split
  · rename_i hn; simp [hn, eq_comm]
  · rename_i hn; simp [hn]

/-- The descriptor of FXEXT and FXSHR (R124, R125). -/
theorem widthDescriptor_eq_some {src dst : FormatOperand} {d : FxDesc} :
    widthDescriptor src dst = some d ↔
      dst.signed = src.signed ∧ dst.m = src.m ∧ src.m < 32 ∧ src.n < 32 ∧ dst.n < 32 ∧
        d = ⟨src.signed, BitVec.ofNat 5 src.m, BitVec.ofNat 5 src.n, BitVec.ofNat 5 dst.n, src.c, dst.c⟩ := by
  constructor
  · intro h
    unfold widthDescriptor at h
    split at h
    · rename_i hagree
      obtain ⟨hsigned, hm⟩ := hagree
      split at h
      · rename_i m ns nd hfm hfns hfnd
        obtain ⟨hm32, rfl⟩ := fitted_eq_some.mp hfm
        obtain ⟨hn32, rfl⟩ := fitted_eq_some.mp hfns
        obtain ⟨hd32, rfl⟩ := fitted_eq_some.mp hfnd
        cases h
        exact ⟨hsigned, hm, hm32, hn32, hd32, rfl⟩
      · cases h
    · cases h
  · rintro ⟨hsigned, hm, hm32, hn32, hd32, rfl⟩
    simp [widthDescriptor, fitted, hsigned, hm, hm32, hn32, hd32]

/-- The descriptor of FXU2S and FXS2U (R124, R125). -/
theorem signDescriptor_eq_some {agree : Nat → Nat → Bool} {src dst : FormatOperand} {d : FxDesc} :
    signDescriptor agree src dst = some d ↔
      dst.signed = !src.signed ∧ dst.m = src.m ∧ agree src.n dst.n = true ∧ src.m < 32 ∧ src.n < 32 ∧
        d = ⟨src.signed, BitVec.ofNat 5 src.m, BitVec.ofNat 5 src.n, 0, src.c, dst.c⟩ := by
  constructor
  · intro h
    unfold signDescriptor at h
    split at h
    · rename_i hagree
      obtain ⟨hsigned, hm, hn⟩ := hagree
      split at h
      · rename_i m ns hfm hfns
        obtain ⟨hm32, rfl⟩ := fitted_eq_some.mp hfm
        obtain ⟨hn32, rfl⟩ := fitted_eq_some.mp hfns
        cases h
        exact ⟨hsigned, hm, hn, hm32, hn32, rfl⟩
      · cases h
    · cases h
  · rintro ⟨hsigned, hm, hn, hm32, hn32, rfl⟩
    simp [signDescriptor, fitted, hsigned, hm, hn, hm32, hn32]

/-- What a sign conversion assembles to, with the relation of the fractional bits spelt out. -/
theorem map_signDescriptor_eq_some {agree : Nat → Nat → Bool} {src dst : FormatOperand} {related : Prop}
    (h : agree src.n dst.n = true ↔ related) {mk : FxDesc → Instr} {i : Instr} :
    (signDescriptor agree src dst).map mk = some i ↔
      dst.signed = !src.signed ∧ dst.m = src.m ∧ related ∧ src.m < 32 ∧ src.n < 32 ∧
        i = mk ⟨src.signed, BitVec.ofNat 5 src.m, BitVec.ofNat 5 src.n, 0, src.c, dst.c⟩ := by
  simp only [Option.map_eq_some_iff, signDescriptor_eq_some, h]
  constructor
  · rintro ⟨d, ⟨hsigned, hm, hn, hm32, hn32, rfl⟩, rfl⟩
    exact ⟨hsigned, hm, hn, hm32, hn32, rfl⟩
  · rintro ⟨hsigned, hm, hn, hm32, hn32, rfl⟩
    exact ⟨_, ⟨hsigned, hm, hn, hm32, hn32, rfl⟩, rfl⟩

/-- Settles O7: each conversion assembles to its constructor on the descriptor of its two formats. -/
theorem assembledFormatsAgree : Obligations.AssembledFormatsAgree := by
  intro src dst a i
  have hext : ∀ mk, (mk = Instr.fxext ∧ conversionOf "FXEXT" src dst a = some i ∨
      mk = Instr.fxshr ∧ conversionOf "FXSHR" src dst a = some i) →
      ∃ d, widthDescriptor src dst = some d ∧ mk d a = i := by
    rintro mk (⟨rfl, h⟩ | ⟨rfl, h⟩) <;> exact Option.map_eq_some_iff.mp h
  refine ⟨fun mk h => ?_, ?_, ?_, fun hsigned hm hm32 hn32 hd32 => ?_⟩
  · obtain ⟨d, hd, rfl⟩ := hext mk h
    obtain ⟨hsigned, hm, hm32, hn32, hd32, rfl⟩ := widthDescriptor_eq_some.mp hd
    exact ⟨hsigned, hm, hm32, hn32, hd32, rfl⟩
  · exact map_signDescriptor_eq_some (agree := fun n n' => n' + 1 == n) (mk := fun d => .fxu2s d a) beq_iff_eq
  · exact map_signDescriptor_eq_some (agree := fun n n' => n' == n + 1) (mk := fun d => .fxs2u d a) beq_iff_eq
  · have hd := widthDescriptor_eq_some.mpr ⟨hsigned, hm, hm32, hn32, hd32, rfl⟩
    simp [conversionOf, hd]

/-! ## The pseudo-instructions (R126) -/

/-- A 16-bit immediate is that number as a 32-bit one too. -/
theorem immediate_widen {a : String} {v : Word} (h : immediate 16 a = some v) :
    immediate 32 a = some (v.setWidth 32) := by
  unfold immediate at h ⊢
  cases hn : numberOf a.toList with
  | none => rw [hn] at h; cases h
  | some n =>
    rw [hn] at h
    obtain ⟨hn16, rfl⟩ := fitted_eq_some.mp h
    refine fitted_eq_some.mpr ⟨by omega, ?_⟩
    apply BitVec.eq_of_toNat_eq
    rw [BitVec.toNat_setWidth, BitVec.toNat_ofNat, BitVec.toNat_ofNat]
    omega

/-- Settles O8: the formats of U16TOS15 give its descriptor, and its immediate is the conversion's. -/
theorem pseudoInstructionsExpand : Obligations.PseudoInstructionsExpand := by
  refine ⟨rfl, rfl, rfl, rfl, fun a ha => ?_⟩
  obtain ⟨v, hv⟩ := Option.isSome_iff_exists.mp ha
  have hsrc : formatOf "UQ0.16/C16" = some ⟨false, 0, 16, .c16⟩ := by decide
  have hdst : formatOf "SQ0.15/C16" = some ⟨true, 0, 15, .c16⟩ := by decide
  simp only [assembleTokens, assembleOne, assembleConversion, hv, hsrc, hdst, immediate_widen hv]
  rfl

end Sys2Proof.Machine

/-!
PROOFS, the family of 40_fixedpoint.md: what a container holds (R161, R162), what each conversion answers (R163 to
R166), and the round-trip laws (R167).
-/
namespace Sys2Proof.Machine

/-! ## Codes in the range of a format (00_scope.md R16) -/

theorem inFormat_signed {w : Nat} {c : Int} : inFormat true w c = true ↔ -2 ^ (w - 1) ≤ c ∧ c < 2 ^ (w - 1) := by
  simp [inFormat]

theorem inFormat_unsigned {w : Nat} {c : Int} : inFormat false w c = true ↔ 0 ≤ c ∧ c < 2 ^ w := by
  simp [inFormat]

/-- A wider format of the same signedness has every code of a narrower one. -/
theorem inFormat_mono {sg : Bool} {w v : Nat} {c : Int} (h : inFormat sg w c = true) (hwv : w ≤ v) :
    inFormat sg v c = true := by
  cases sg with
  | false =>
    obtain ⟨hlo, hhi⟩ := inFormat_unsigned.mp h
    exact inFormat_unsigned.mpr ⟨hlo, hhi.trans_le (pow_le_pow_right₀ (by decide) hwv)⟩
  | true =>
    obtain ⟨hlo, hhi⟩ := inFormat_signed.mp h
    have hpow : (2 : Int) ^ (w - 1) ≤ 2 ^ (v - 1) := pow_le_pow_right₀ (by decide) (Nat.sub_le_sub_right hwv 1)
    exact inFormat_signed.mpr ⟨(neg_le_neg hpow).trans hlo, hhi.trans_le hpow⟩

/-- k more low-order bits take k more bits of width (R163). -/
theorem inFormat_mul_pow {sg : Bool} {w k : Nat} {c : Int} (hw : 1 ≤ w) (h : inFormat sg w c = true) :
    inFormat sg (w + k) (c * 2 ^ k) = true := by
  have hk : (0 : Int) < 2 ^ k := by positivity
  cases sg with
  | false =>
    obtain ⟨hlo, hhi⟩ := inFormat_unsigned.mp h
    rw [inFormat_unsigned, pow_add]
    exact ⟨mul_nonneg hlo hk.le, mul_lt_mul_of_pos_right hhi hk⟩
  | true =>
    obtain ⟨hlo, hhi⟩ := inFormat_signed.mp h
    rw [inFormat_signed, Nat.sub_add_comm hw, pow_add, ← neg_mul]
    exact ⟨mul_le_mul_of_nonneg_right hlo hk.le, mul_lt_mul_of_pos_right hhi hk⟩

/-- k fewer low-order bits free k bits of width (R164). -/
theorem inFormat_div_pow {sg : Bool} {w k : Nat} {c : Int} (hw : 1 ≤ w) (h : inFormat sg (w + k) c = true) :
    inFormat sg w (c / 2 ^ k) = true := by
  have hk : (0 : Int) < 2 ^ k := by positivity
  cases sg with
  | false =>
    rw [inFormat_unsigned, pow_add] at h
    obtain ⟨hlo, hhi⟩ := h
    exact inFormat_unsigned.mpr ⟨Int.ediv_nonneg hlo hk.le, Int.ediv_lt_of_lt_mul hk hhi⟩
  | true =>
    rw [inFormat_signed, Nat.sub_add_comm hw, pow_add, ← neg_mul] at h
    obtain ⟨hlo, hhi⟩ := h
    exact inFormat_signed.mpr ⟨Int.le_ediv_of_mul_le hk hlo, Int.ediv_lt_of_lt_mul hk hhi⟩

/-- Half an unsigned code is a non-negative signed code of the same width (R165). -/
theorem inFormat_half {w : Nat} {c : Int} (hw : 1 ≤ w) (h : inFormat false w c = true) :
    inFormat true w (c / 2) = true := by
  obtain ⟨v, rfl⟩ := Nat.exists_eq_add_of_le' hw
  rw [inFormat_unsigned, pow_succ] at h
  rw [inFormat_signed, Nat.add_sub_cancel]
  omega

/-- Twice a non-negative signed code is an unsigned code of the same width (R166). -/
theorem inFormat_double {w : Nat} {c : Int} (hw : 1 ≤ w) (h : inFormat true w c = true) (hc : 0 ≤ c) :
    inFormat false w (2 * c) = true := by
  obtain ⟨v, rfl⟩ := Nat.exists_eq_add_of_le' hw
  rw [inFormat_signed, Nat.add_sub_cancel] at h
  rw [inFormat_unsigned, pow_succ]
  omega

/-! ## Containers (00_scope.md R14, R17; 40_fixedpoint.md R161, R162) -/

theorem cwidth_bits_pos (c : CWidth) : 1 ≤ c.bits := by cases c <;> decide

theorem cwidth_bits_le (c : CWidth) : c.bits ≤ 32 := by cases c <;> decide

/-- A pattern and its code agree modulo 2^C, whatever the signedness. -/
theorem containerCode_emod {sg : Bool} {c b : Nat} (hb : b < 2 ^ c) : containerCode sg c b % 2 ^ c = b := by
  have hpat : (b : Int) % 2 ^ c = b := Int.emod_eq_of_lt (Int.natCast_nonneg b) (by exact_mod_cast hb)
  cases sg with
  | false => exact hpat
  | true =>
    rw [containerCode, if_pos rfl, sintOf]
    split
    · exact hpat
    · rw [Int.sub_emod_right, hpat]

/-- sint_C reads back a code from its two's-complement pattern (R14). -/
theorem sintOf_emod {c : Nat} {x : Int} (hc : 1 ≤ c) (h : inFormat true c x = true) :
    sintOf c (x % 2 ^ c).toNat = x := by
  obtain ⟨k, rfl⟩ := Nat.exists_eq_add_of_le' hc
  rw [inFormat_signed, Nat.add_sub_cancel] at h
  have hcast : ((2 ^ k : Nat) : Int) = 2 ^ k := by norm_cast
  have hpow : (2 : Int) ^ (k + 1) = 2 ^ k * 2 := pow_succ 2 k
  rw [sintOf, Nat.add_sub_cancel]
  rcases lt_or_ge x 0 with hneg | hpos
  · have hmod : x % 2 ^ (k + 1) = x + 2 ^ (k + 1) := by
      rw [← Int.add_emod_right]
      exact Int.emod_eq_of_lt (by omega) (by omega)
    rw [hmod, if_neg (by omega)]
    omega
  · have hmod : x % 2 ^ (k + 1) = x := Int.emod_eq_of_lt hpos (by omega)
    rw [hmod, if_pos (by omega)]
    omega

theorem containerCode_of_emod {sg : Bool} {c : Nat} {x : Int} (hc : 1 ≤ c) (h : inFormat sg c x = true) :
    containerCode sg c (x % 2 ^ c).toNat = x := by
  cases sg with
  | false =>
    obtain ⟨hlo, hhi⟩ := inFormat_unsigned.mp h
    rw [Int.emod_eq_of_lt hlo hhi]
    exact Int.toNat_of_nonneg hlo
  | true => exact sintOf_emod hc h

theorem toNat_fxWrite (cd : CWidth) (c : Int) : (fxWrite cd c).toNat = (c % 2 ^ cd.bits).toNat := by
  have hlt : c % 2 ^ cd.bits < 2 ^ 32 :=
    (Int.emod_lt_of_pos c (by positivity)).trans_le (pow_le_pow_right₀ (by decide) (cwidth_bits_le cd))
  rw [fxWrite, BitVec.toNat_ofInt]
  exact congrArg Int.toNat (Int.emod_eq_of_lt (Int.emod_nonneg c (by positivity)) hlt)

/-- The result write is canonical for every format that fits the container (R162). -/
theorem holdsCode_fxWrite {sg : Bool} {w : Nat} {cd : CWidth} {c : Int} (hw : w ≤ cd.bits)
    (h : inFormat sg w c = true) : HoldsCode sg w cd (fxWrite cd c) c := by
  unfold HoldsCode
  rw [toNat_fxWrite]
  refine ⟨?_, containerCode_of_emod (cwidth_bits_pos cd) (inFormat_mono h hw), h⟩
  have hlt : c % 2 ^ cd.bits < 2 ^ cd.bits := Int.emod_lt_of_pos c (by positivity)
  rw [Int.toNat_lt (Int.emod_nonneg c (by positivity))]
  exact_mod_cast hlt

/-- A container holds a code in one pattern only. -/
theorem HoldsCode.unique {sg : Bool} {w v : Nat} {cd : CWidth} {a b : RspData} {c : Int} (ha : HoldsCode sg w cd a c)
    (hb : HoldsCode sg v cd b c) : a = b := by
  obtain ⟨hafits, hacode, -⟩ := ha
  obtain ⟨hbfits, hbcode, -⟩ := hb
  have hcodes : (a.toNat : Int) = b.toNat := by
    rw [← containerCode_emod hafits, ← containerCode_emod hbfits, hacode, hbcode]
  exact BitVec.eq_of_toNat_eq (by exact_mod_cast hcodes)

/-! ## What each conversion answers (R163 to R166) -/

theorem fxextLegal_iff {d : FxDesc} : fxextLegal d = true ↔
    d.ns.toNat ≤ d.nd.toNat ∧ 1 ≤ fxSourceWidth d ∧ fxSourceWidth d ≤ d.cs.bits ∧ fxDestWidth d ≤ d.cd.bits := by
  simp [fxextLegal, and_assoc]

theorem fxshrLegal_iff {d : FxDesc} : fxshrLegal d = true ↔
    d.nd.toNat ≤ d.ns.toNat ∧ fxSourceWidth d ≤ d.cs.bits ∧ 1 ≤ fxDestWidth d ∧ fxDestWidth d ≤ d.cd.bits := by
  simp [fxshrLegal, and_assoc]

theorem fxu2sLegal_iff {d : FxDesc} : fxu2sLegal d = true ↔
    d.signed = false ∧ d.nd = 0 ∧ 1 ≤ d.ns.toNat ∧ 1 ≤ fxSourceWidth d ∧ fxSourceWidth d ≤ d.cs.bits ∧
      fxSourceWidth d ≤ d.cd.bits := by
  simp [fxu2sLegal, and_assoc]

theorem fxs2uLegal_iff {d : FxDesc} : fxs2uLegal d = true ↔
    d.signed = true ∧ d.nd = 0 ∧ fxSourceWidth d ≤ d.cs.bits ∧ fxSourceWidth d ≤ d.cd.bits := by
  simp [fxs2uLegal, and_assoc]

/-- The operand of an FX command holds the code c canonically for the source format (R161). -/
def SourceHolds (d : FxDesc) (a : BitVec 32) (c : Int) : Prop := HoldsCode d.signed (fxSourceWidth d) d.cs a c

/-- The premises of the obligations: a legal descriptor, and an operand that holds its code. -/
theorem sourceHolds_of_wellFormed {legal : Bool} {d : FxDesc} {a : BitVec 32}
    (hwf : (legal && fxOperandFits d a) = true) (hc : FxCanonical d a) :
    legal = true ∧ SourceHolds d a (fxCode d a) := by
  obtain ⟨hlegal, hfits⟩ := Bool.and_eq_true_iff.mp hwf
  exact ⟨hlegal, of_decide_eq_true hfits, rfl, hc⟩

theorem fxSourceWidth_signed {d : FxDesc} (h : d.signed = true) :
    fxSourceWidth d = 1 + d.m.toNat + d.ns.toNat := by
  rw [fxSourceWidth, fxSg, if_pos h]

theorem fxSourceWidth_unsigned {d : FxDesc} (h : d.signed = false) : fxSourceWidth d = d.m.toNat + d.ns.toNat := by
  rw [fxSourceWidth, fxSg, h, if_neg Bool.false_ne_true, Nat.zero_add]

theorem one_le_fxSourceWidth {d : FxDesc} (h : d.signed = true) : 1 ≤ fxSourceWidth d := by
  rw [fxSourceWidth_signed h]
  omega

section
variable {d : FxDesc} {a : BitVec 32} {c : Int}

theorem SourceHolds.canonical (h : SourceHolds d a c) : inFormat d.signed (fxSourceWidth d) c = true := by
  obtain ⟨-, -, hin⟩ := h
  exact hin

theorem SourceHolds.nonneg (h : SourceHolds d a c) (hsg : d.signed = false) : 0 ≤ c := by
  have hin := h.canonical
  rw [hsg] at hin
  obtain ⟨hlo, -⟩ := inFormat_unsigned.mp hin
  exact hlo

/-- The common frame of R160 to R162: with the checks passed and a result in the range of a destination format that
fits its container, the command answers OK, its data hold the result, and nothing is written. -/
theorem fxResult_answers {legal : Bool} {conv : Int → Option Int} {sg : Bool} {w : Nat} {c' : Int}
    (hlegal : legal = true) (h : SourceHolds d a c) (hconv : conv c = some c') (hw : w ≤ d.cd.bits)
    (hin : inFormat sg w c' = true) (s : State) :
    ∃ data, (.next (s.finish (fxResult legal conv d a)) : Host.Outcome State Fault Refusal) =
      .next (s.respond .ok data) ∧ HoldsCode sg w d.cd data c' := by
  obtain ⟨hfits, rfl, hc⟩ := h
  refine ⟨fxWrite d.cd c', ?_, holdsCode_fxWrite hw hin⟩
  rw [fxResult_converted (Bool.and_eq_true_iff.mpr ⟨hlegal, decide_eq_true hfits⟩) hc hconv]
  rfl

theorem fxext_answers (hlegal : fxextLegal d = true) (h : SourceHolds d a c) (s : State) :
    ∃ data, exec (.fxext d a) s = .next (s.respond .ok data) ∧
      HoldsCode d.signed (fxDestWidth d) d.cd data (c * 2 ^ (d.nd.toNat - d.ns.toNat)) := by
  obtain ⟨hns, hpos, -, hw⟩ := fxextLegal_iff.mp hlegal
  have hin := h.canonical
  have hwidth : fxDestWidth d = fxSourceWidth d + (d.nd.toNat - d.ns.toNat) := by
    simp only [fxDestWidth, fxSourceWidth]
    omega
  exact fxResult_answers (conv := fxextConv d) hlegal h rfl hw (by rw [hwidth]; exact inFormat_mul_pow hpos hin) s

theorem fxshr_answers (hlegal : fxshrLegal d = true) (h : SourceHolds d a c) (s : State) :
    ∃ data, exec (.fxshr d a) s = .next (s.respond .ok data) ∧
      HoldsCode d.signed (fxDestWidth d) d.cd data (c / 2 ^ (d.ns.toNat - d.nd.toNat)) := by
  obtain ⟨hnd, -, hpos, hw⟩ := fxshrLegal_iff.mp hlegal
  have hin := h.canonical
  have hwidth : fxSourceWidth d = fxDestWidth d + (d.ns.toNat - d.nd.toNat) := by
    simp only [fxDestWidth, fxSourceWidth]
    omega
  rw [hwidth] at hin
  exact fxResult_answers (conv := fxshrConv d) hlegal h rfl hw (inFormat_div_pow hpos hin) s

theorem fxu2s_answers (hlegal : fxu2sLegal d = true) (h : SourceHolds d a c) (s : State) :
    ∃ data, exec (.fxu2s d a) s = .next (s.respond .ok data) ∧
      HoldsCode true (fxSourceWidth d) d.cd data (c / 2) := by
  obtain ⟨hsg, -, -, hpos, -, hw⟩ := fxu2sLegal_iff.mp hlegal
  have hin := h.canonical
  rw [hsg] at hin
  exact fxResult_answers (conv := fxu2sConv) hlegal h rfl hw (inFormat_half hpos hin) s

theorem fxs2u_answers (hlegal : fxs2uLegal d = true) (h : SourceHolds d a c) (hc : 0 ≤ c) (s : State) :
    ∃ data, exec (.fxs2u d a) s = .next (s.respond .ok data) ∧
      HoldsCode false (fxSourceWidth d) d.cd data (2 * c) := by
  obtain ⟨hsg, -, -, hw⟩ := fxs2uLegal_iff.mp hlegal
  have hin := h.canonical
  rw [hsg] at hin
  have hdouble := inFormat_double (one_le_fxSourceWidth hsg) hin hc
  exact fxResult_answers (conv := fxs2uConv) hlegal h (if_neg (Int.not_lt.mpr hc)) hw hdouble s

end

/-- Settles O41: the answer of FXEXT. -/
theorem fxextShiftsLeft : Obligations.FxextShiftsLeft := by
  intro d a s hwf hc
  obtain ⟨hlegal, hsrc⟩ := sourceHolds_of_wellFormed hwf hc
  obtain ⟨data, hexec, hdata⟩ := fxext_answers hlegal hsrc s
  exact ⟨_, data, hexec, readOnly_respond data s, hdata⟩

/-- Settles O42: the answer of FXSHR, whose quotient is the floor. -/
theorem fxshrFloors : Obligations.FxshrFloors := by
  intro d a s hwf hc
  obtain ⟨hlegal, hsrc⟩ := sourceHolds_of_wellFormed hwf hc
  obtain ⟨data, hexec, hdata⟩ := fxshr_answers hlegal hsrc s
  have hpos : (0 : Int) < 2 ^ (d.ns.toNat - d.nd.toNat) := by positivity
  exact ⟨_, data, _, hexec, readOnly_respond data s, hdata, Int.ediv_mul_le _ hpos.ne',
    Int.lt_ediv_add_one_mul_self _ hpos⟩

/-- Settles O43: the answer of FXU2S, whose source is not negative. -/
theorem fxuToSHalves : Obligations.FxuToSHalves := by
  intro d a s hwf hc
  obtain ⟨hlegal, hsrc⟩ := sourceHolds_of_wellFormed hwf hc
  obtain ⟨data, hexec, hdata⟩ := fxu2s_answers hlegal hsrc s
  obtain ⟨hsg, -⟩ := fxu2sLegal_iff.mp hlegal
  have hnonneg := hsrc.nonneg hsg
  exact ⟨_, data, _, hexec, readOnly_respond data s, hdata, by omega, by omega⟩

/-- Settles O44: the answer of FXS2U. -/
theorem fxsToUDoubles : Obligations.FxsToUDoubles := by
  intro d a s hwf hc hnonneg
  obtain ⟨hlegal, hsrc⟩ := sourceHolds_of_wellFormed hwf hc
  obtain ⟨data, hexec, hdata⟩ := fxs2u_answers hlegal hsrc hnonneg s
  exact ⟨_, data, hexec, readOnly_respond data s, hdata⟩

/-! ## The round-trip laws (R167) -/

/-- The descriptor of the width conversion back: both fractional widths and both containers change places. -/
def widthBack (d : FxDesc) : FxDesc := ⟨d.signed, d.m, d.nd, d.ns, d.cd, d.cs⟩

/-- The descriptor of the FXU2S that goes back from an FXS2U. -/
def signInsertedBack (d : FxDesc) : FxDesc := ⟨false, d.m, d.ns + 1, 0, d.cd, d.cs⟩

/-- The descriptor of the FXS2U that goes back from an FXU2S. -/
def signRemovedBack (d : FxDesc) : FxDesc := ⟨true, d.m, d.ns - 1, 0, d.cd, d.cs⟩

/-- FXSHR back from a legal FXEXT is legal. -/
theorem fxshrLegal_widthBack {d : FxDesc} (h : fxextLegal d = true) : fxshrLegal (widthBack d) = true := by
  obtain ⟨hns, hpos, hsrc, hdst⟩ := fxextLegal_iff.mp h
  exact fxshrLegal_iff.mpr ⟨hns, hdst, hpos, hsrc⟩

/-- FXEXT back from a legal FXSHR is legal. -/
theorem fxextLegal_widthBack {d : FxDesc} (h : fxshrLegal d = true) : fxextLegal (widthBack d) = true := by
  obtain ⟨hnd, hsrc, hpos, hdst⟩ := fxshrLegal_iff.mp h
  exact fxextLegal_iff.mpr ⟨hnd, hpos, hdst, hsrc⟩

/-- The sign bit becomes one more fractional bit, where NS can name it. -/
theorem fxSourceWidth_signInsertedBack {d : FxDesc} (hsg : d.signed = true) (hns : d.ns.toNat < 31) :
    fxSourceWidth (signInsertedBack d) = fxSourceWidth d := by
  have hfrac : (d.ns + 1).toNat = d.ns.toNat + 1 := by bv_omega
  rw [fxSourceWidth_signed hsg, fxSourceWidth_unsigned rfl]
  simp only [signInsertedBack, hfrac]
  omega

/-- One fractional bit becomes the sign bit. -/
theorem fxSourceWidth_signRemovedBack {d : FxDesc} (hsg : d.signed = false) (hns : 1 ≤ d.ns.toNat) :
    fxSourceWidth (signRemovedBack d) = fxSourceWidth d := by
  have hfrac : (d.ns - 1).toNat = d.ns.toNat - 1 := by bv_omega
  rw [fxSourceWidth_unsigned hsg, fxSourceWidth_signed rfl]
  simp only [signRemovedBack, hfrac]
  omega

/-- FXU2S back from a legal FXS2U is legal, below 31 fractional bits. -/
theorem fxu2sLegal_signInsertedBack {d : FxDesc} (h : fxs2uLegal d = true) (hns : d.ns.toNat < 31) :
    fxu2sLegal (signInsertedBack d) = true := by
  obtain ⟨hsg, -, hcs, hcd⟩ := fxs2uLegal_iff.mp h
  have hfrac : 1 ≤ (d.ns + 1).toNat := by bv_omega
  rw [fxu2sLegal_iff, fxSourceWidth_signInsertedBack hsg hns]
  exact ⟨rfl, rfl, hfrac, one_le_fxSourceWidth hsg, hcd, hcs⟩

/-- FXS2U back from a legal FXU2S is legal. -/
theorem fxs2uLegal_signRemovedBack {d : FxDesc} (h : fxu2sLegal d = true) :
    fxs2uLegal (signRemovedBack d) = true := by
  obtain ⟨hsg, -, hns, -, hcs, hcd⟩ := fxu2sLegal_iff.mp h
  rw [fxs2uLegal_iff, fxSourceWidth_signRemovedBack hsg hns]
  exact ⟨rfl, rfl, hcd, hcs⟩

/-- Settles O45: the shift left and the shift right by as much cancel, and a container holds a code once. -/
theorem shrinkUndoesExtend : Obligations.ShrinkUndoesExtend := by
  intro d a s hwf hc
  obtain ⟨hlegal, hsrc⟩ := sourceHolds_of_wellFormed hwf hc
  obtain ⟨data, hexec, hdata⟩ := fxext_answers hlegal hsrc s
  obtain ⟨back, hexec', hback⟩ :=
    fxshr_answers (d := widthBack d) (fxshrLegal_widthBack hlegal) hdata (s.respond .ok data)
  have hcancel : fxCode d a * 2 ^ (d.nd.toNat - d.ns.toNat) / 2 ^ (d.nd.toNat - d.ns.toNat) = fxCode d a :=
    Int.mul_ediv_cancel _ (by positivity)
  simp only [widthBack, hcancel] at hback
  obtain rfl := hback.unique hsrc
  exact ⟨_, _, data, hexec, answered_respond _ _ _, hexec', answered_respond _ _ _⟩

/-- Settles O46: the quotient times the divisor is the code without its remainder. -/
theorem extendAfterShrinkClearsLowBits : Obligations.ExtendAfterShrinkClearsLowBits := by
  intro d a s hwf hc
  obtain ⟨hlegal, hsrc⟩ := sourceHolds_of_wellFormed hwf hc
  obtain ⟨data, hexec, hdata⟩ := fxshr_answers hlegal hsrc s
  obtain ⟨data', hexec', hdata'⟩ :=
    fxext_answers (d := widthBack d) (fxextLegal_widthBack hlegal) hdata (s.respond .ok data)
  refine ⟨_, _, data, data', hexec, answered_respond _ _ _, hexec', answered_respond _ _ _, ?_⟩
  have hcleared := eq_sub_of_add_eq (Int.ediv_mul_add_emod (fxCode d a) (2 ^ (d.ns.toNat - d.nd.toNat)))
  rw [← hcleared]
  exact hdata'

/-- FXU2S(FXS2U(x)) = x for a non-negative x (R167, third law). -/
theorem fxu2s_undoes_fxs2u {d : FxDesc} {a : BitVec 32} {c : Int} (hlegal : fxs2uLegal d = true)
    (h : SourceHolds d a c) (hc : 0 ≤ c) (hns : d.ns.toNat < 31) (s : State) :
    ∃ data, exec (.fxs2u d a) s = .next (s.respond .ok data) ∧
      exec (.fxu2s (signInsertedBack d) data) (s.respond .ok data) = .next ((s.respond .ok data).respond .ok a) := by
  obtain ⟨hsg, -⟩ := fxs2uLegal_iff.mp hlegal
  obtain ⟨data, hexec, hdata⟩ := fxs2u_answers hlegal h hc s
  rw [← fxSourceWidth_signInsertedBack hsg hns] at hdata
  obtain ⟨back, hexec', hback⟩ :=
    fxu2s_answers (fxu2sLegal_signInsertedBack hlegal hns) hdata (s.respond .ok data)
  rw [Int.mul_ediv_cancel_left c two_ne_zero] at hback
  rw [SourceHolds, hsg] at h
  obtain rfl := hback.unique h
  exact ⟨data, hexec, hexec'⟩

/-- FXS2U(FXU2S(u)) is u with bit 0 cleared (R167, fourth law). -/
theorem fxs2u_after_fxu2s {d : FxDesc} {a : BitVec 32} {c : Int} (hlegal : fxu2sLegal d = true)
    (h : SourceHolds d a c) (s : State) :
    ∃ data data', exec (.fxu2s d a) s = .next (s.respond .ok data) ∧
      exec (.fxs2u (signRemovedBack d) data) (s.respond .ok data) = .next ((s.respond .ok data).respond .ok data') ∧
      data'.toNat = a.toNat - a.toNat % 2 := by
  obtain ⟨hsg, -, hns, -⟩ := fxu2sLegal_iff.mp hlegal
  have hnonneg := h.nonneg hsg
  obtain ⟨data, hexec, hdata⟩ := fxu2s_answers hlegal h s
  rw [← fxSourceWidth_signRemovedBack hsg hns] at hdata
  obtain ⟨data', hexec', -, hcode', -⟩ :=
    fxs2u_answers (fxs2uLegal_signRemovedBack hlegal) hdata (by omega) (s.respond .ok data)
  refine ⟨data, data', hexec, hexec', ?_⟩
  obtain ⟨-, hcode, -⟩ := h
  rw [hsg] at hcode
  have hdata'Nat : (data'.toNat : Int) = 2 * (c / 2) := hcode'
  have haNat : (a.toNat : Int) = c := hcode
  omega

/-- Settles O47: the third and the fourth law. -/
theorem signRoundTrips : Obligations.SignRoundTrips := by
  refine ⟨fun d a s hwf hc hnonneg hns => ?_, fun d a s hwf hc => ?_⟩
  · obtain ⟨hlegal, hsrc⟩ := sourceHolds_of_wellFormed hwf hc
    obtain ⟨data, hexec, hexec'⟩ := fxu2s_undoes_fxs2u hlegal hsrc hnonneg hns s
    exact ⟨_, _, data, hexec, answered_respond _ _ _, hexec', answered_respond _ _ _⟩
  · obtain ⟨hlegal, hsrc⟩ := sourceHolds_of_wellFormed hwf hc
    obtain ⟨data, data', hexec, hexec', hbits⟩ := fxs2u_after_fxu2s hlegal hsrc s
    exact ⟨_, _, data, data', hexec, answered_respond _ _ _, hexec', answered_respond _ _ _, hbits⟩

end Sys2Proof.Machine

/-!
PROOFS, the family of 41_trig.md: the quadrant fold (R200), the half turn and the range of the samples (R211, R212),
and the rounding of the scaled magnitude (R206, R207).
-/
namespace Sys2Proof.Machine

/-! ## The quadrant fold -/

/-- The fold's sign is set exactly in the second half of the turn (R200). -/
theorem fold_neg_iff (phi : Word) : (fold phi).neg = true ↔ 0x8000 ≤ phi.toNat := by
  rcases fold_cases phi with ⟨_, h⟩ | ⟨_, _, h⟩ | ⟨_, _, h⟩ | ⟨_, h⟩ <;>
    simp only [h, Bool.false_eq_true, false_iff, true_iff] <;> omega

/-- Settles O35: the code is that of the quadrant `fold_cases` names. -/
theorem foldingStaysInTheQuadrant : Obligations.FoldingStaysInTheQuadrant := by
  intro phi h1 h2
  have hlt := phi.isLt
  refine ⟨Nat.le_of_lt_succ (fold_mag_lt h1 h2), fold_neg_iff phi, ?_⟩
  rcases fold_cases phi with ⟨_, h⟩ | ⟨_, _, h⟩ | ⟨_, _, h⟩ | ⟨_, h⟩ <;>
    simp only [h, implies_true, true_and] <;> omega

/-! ## The scaled magnitude and its rounding -/

/-- The scaled magnitude is 1.0 only where neither the sine nor the attenuation reduces it (R206). -/
theorem scaledMag_eq_one_iff (p : Params) (phi att : Word) :
    scaledMag p phi att = 0x10000 ↔ (phi = 0x4000 ∨ phi = 0xC000) ∧ att = 0 := by
  have hle := scaledMag_le_mag p phi att
  rcases sineFn_mag_cases p phi with ⟨hsing, hmag⟩ | ⟨h1, h2, hmag⟩
  · have hatt : scaledMag p phi att = 0x10000 - att.toNat := by
      rw [scaledMag, hmag, mul16_eq, Nat.mul_div_cancel_left _ (by decide), attFactor]
    rw [hatt, and_iff_right hsing]
    bv_omega
  · exact iff_of_false (by omega) fun ⟨hsing, _⟩ => hsing.elim h1 h2

/-- Below 1.0 the sample is the magnitude rounded half up, at most the positive rail, with the sine's sign (R207). -/
theorem msineFn_rounded {p : Params} {phi att : Word} (h : scaledMag p phi att ≠ 0x10000) :
    msineFn p phi att =
      applySign (sineFn p phi).neg (min ((scaledMag p phi att + 1) / 2) 0x7FFF) := by
  have hle := scaledMag_le p phi att
  rw [msineFn, if_neg h, roundMag_eq (by omega)]

/-- Settles O40: the statement's q is the scaled magnitude. -/
theorem msineRoundsTheScaledMagnitude : Obligations.MsineRoundsTheScaledMagnitude := by
  intro p phi att q
  have hq : q = scaledMag p phi att := (mul16_eq _ _).symm
  rw [hq]
  exact ⟨scaledMag_le p phi att, scaledMag_eq_one_iff p phi att, msineFn_rounded⟩

/-! ## The rails (R212) -/

theorem msineFn_quarter_rail (p : Params) : msineFn p 0x4000 0 = 0x7FFF := by
  rw [msineFn, if_pos ((scaledMag_eq_one_iff p _ _).mpr ⟨.inl rfl, rfl⟩), sineFn_quarter]
  rfl

theorem msineFn_three_quarters_rail (p : Params) : msineFn p 0xC000 0 = -0x8000 := by
  rw [msineFn, if_pos ((scaledMag_eq_one_iff p _ _).mpr ⟨.inr rfl, rfl⟩), sineFn_three_quarters]
  rfl

/-- A rounded sample stays above the negative rail (R207). -/
theorem neg_rail_lt_applySign (neg : Bool) (m : Nat) : -0x8000 < applySign neg (min m 0x7FFF) := by
  cases neg <;> simp only [applySign, if_true, if_false, Bool.false_eq_true] <;> omega

/-- The negative rail is the sample of one phase, unattenuated (R212). -/
theorem msineFn_eq_neg_rail_iff (p : Params) (phi att : Word) :
    msineFn p phi att = -0x8000 ↔ phi = 0xC000 ∧ att = 0 := by
  constructor
  · intro h
    by_cases hone : scaledMag p phi att = 0x10000
    · obtain ⟨rfl | rfl, rfl⟩ := (scaledMag_eq_one_iff p phi att).mp hone
      · rw [msineFn_quarter_rail] at h
        exact absurd h (by decide)
      · exact ⟨rfl, rfl⟩
    · rw [msineFn_rounded hone] at h
      exact absurd h (neg_rail_lt_applySign _ _).ne'
  · rintro ⟨rfl, rfl⟩
    exact msineFn_three_quarters_rail p

/-- Settles O39: the range of every sample, its one negative rail, and a fall of INTERP after knot 237. -/
theorem msineCodomain : Obligations.MsineCodomain := by
  refine ⟨fun p phi att => ?_, by decide +kernel, by decide +kernel⟩
  obtain ⟨hlow, hhigh⟩ := msineFn_range p phi att
  exact ⟨hlow, hhigh, msineFn_eq_neg_rail_iff p phi att⟩

/-! ## The half turn (R211) -/

/-- A half turn keeps the folded code and changes the fold's sign (R200). -/
theorem fold_half_turn {x : Word} (hx : x.toNat < 0x8000) :
    fold (x + 0x8000) = ⟨(fold x).mag, !(fold x).neg⟩ := by
  have hn : (x + 0x8000 : Word).toNat = x.toNat + 0x8000 := by bv_omega
  rcases fold_cases x with ⟨_, h⟩ | ⟨_, _, h⟩ | ⟨_, _, _⟩ | ⟨_, _⟩
  · rcases fold_cases (x + 0x8000) with ⟨_, _⟩ | ⟨_, _, _⟩ | ⟨_, _, h'⟩ | ⟨_, _⟩
    case inr.inr.inl => rw [h, h', hn, Nat.add_sub_cancel]; rfl
    all_goals omega
  · rcases fold_cases (x + 0x8000) with ⟨_, _⟩ | ⟨_, _, _⟩ | ⟨_, _, _⟩ | ⟨_, h'⟩
    case inr.inr.inr =>
      have hmag : 0x10000 - (x.toNat + 0x8000) = 0x8000 - x.toNat := by omega
      rw [h, h', hn, hmag]
      rfl
    all_goals omega
  all_goals omega

theorem sineFn_half_turn (p : Params) {x : Word} (hx : x.toNat < 0x8000) :
    sineFn p (x + 0x8000) = ⟨(sineFn p x).mag, !(sineFn p x).neg⟩ := by
  by_cases h : x = 0x4000
  · subst h
    rfl
  · rw [sineFn_folded p (by bv_omega) (by bv_omega), sineFn_folded p h (by bv_omega), fold_half_turn hx]

theorem scaledMag_half_turn (p : Params) {x : Word} (hx : x.toNat < 0x8000) (att : Word) :
    scaledMag p (x + 0x8000) att = scaledMag p x att := by
  rw [scaledMag, sineFn_half_turn p hx, scaledMag]

theorem applySign_not (neg : Bool) (m : Nat) : applySign (!neg) m = -applySign neg m := by
  cases neg <;> simp [applySign]

/-- Below 1.0 a half turn negates the sample. -/
theorem msineFn_half_turn {p : Params} {x att : Word} (hx : x.toNat < 0x8000)
    (h : scaledMag p x att ≠ 0x10000) : msineFn p (x + 0x8000) att = -msineFn p x att := by
  have hturn := scaledMag_half_turn p hx att
  rw [msineFn_rounded h, msineFn_rounded (hturn.trans_ne h), hturn, sineFn_half_turn p hx, applySign_not]

/-- Settles O38: below 0x8000 the scaled magnitude is 1.0 in the excepted case alone, where both samples are rails. -/
theorem sineHalfTurn : Obligations.SineHalfTurn := by
  intro p x hx
  have hturn := sineFn_half_turn p hx
  refine ⟨by rw [hturn], by rw [hturn], fun att => ⟨fun hne => ?_, ?_⟩⟩
  · refine msineFn_half_turn hx fun hone => ?_
    obtain ⟨rfl | rfl, rfl⟩ := (scaledMag_eq_one_iff p x att).mp hone
    · simp at hne
    · exact absurd hx (by decide)
  · rintro rfl rfl
    exact ⟨msineFn_three_quarters_rail p, msineFn_quarter_rail p⟩

end Sys2Proof.Machine

/-!
PROOFS, the family of 42_oscillator.md: the setters and the STEPs that look ahead (R241 to R244), the phase period
(R247), the pause (R248), and INIT (R240).
-/
namespace Sys2Proof.Machine

/-! ## Register writes that end in a lookahead -/

/-- The two states differ in the register x and the registers of a lookahead alone. -/
structure WritesOnly (x : Reg) (s u : State) : Prop where
  regs : SameRegsBut (x :: smootherRegs) s u
  outside : SameOutside s u

/-- The command was answered OK with data 0, and wrote the register x and the registers of a lookahead at most. -/
def AnsweredWriting (x : Reg) (s t : State) : Prop :=
  SameRegsBut (x :: smootherRegs) s t ∧ t.fault = s.fault ∧ SameFixed s t ∧ Answered .ok 0 s t

/-- LOOKAHEAD writes no control register and no parameter (R286). -/
theorem lookahead_regs (s : State) : SameRegsBut smootherRegs s (lookahead s) := by
  intro r hr
  cases r with
  | freq | phi | att | cfg => simp [readReg]
  | _ => simp [smootherRegs] at hr

/-- A response writes nothing that a lookahead is described by. -/
theorem LookaheadOutcome.respond {t : State} (h : LookaheadOutcome t) (st : Status) (d : RspData) :
    LookaheadOutcome (t.respond st d) := by
  obtain ⟨hs, ⟨n1, n2, hw, hsched⟩ | ⟨hnone, hpp, hin⟩⟩ := h
  · exact ⟨hs, .inl ⟨n1, n2, hw.congr rfl rfl rfl rfl rfl rfl, { hsched with }⟩⟩
  · exact ⟨hs, .inr ⟨fun n1 n2 hw => hnone n1 n2 (hw.congr rfl rfl rfl rfl rfl rfl), hpp, { hin with }⟩⟩

/-- A command that writes the register x, then runs a lookahead and answers OK (R48, R286). -/
theorem WritesOnly.lookahead_respond {x : Reg} {s u : State} (h : WritesOnly x s u) :
    LookaheadOutcome ((lookahead u).respond .ok 0) ∧ AnsweredWriting x s ((lookahead u).respond .ok 0) := by
  obtain ⟨hregs, hfault, hhalt, hparams, hrom, hprog, hpos, hresp⟩ := h
  refine ⟨(lookahead_outcome u).respond _ _, fun r hr => ?_, ?_⟩
  · have hsub : r ∉ smootherRegs := fun hm => hr (List.mem_cons_of_mem x hm)
    rw [readReg_respond, lookahead_regs u r hsub, hregs r hr]
  · simp [SameFixed, Answered, *]

/-- Writing the boundary before the lookahead writes the sub-state alone. -/
theorem WritesOnly.setBoundary {x : Reg} {s u : State} (h : WritesOnly x s u) (p v : Word) :
    WritesOnly x s (u.setBoundary p v) where
  regs := by
    intro r hr
    rw [← h.regs r hr]
    cases r with
    | phi0 | val0 => simp [smootherRegs] at hr
    | _ => rfl
  outside := h.outside

/-- A command that writes the register x, then rebuilds and answers OK (R281). -/
theorem WritesOnly.rebuild_respond {x : Reg} {s u : State} (h : WritesOnly x s u) :
    Rebuilt ((rebuild u).respond .ok 0) ∧ AnsweredWriting x s ((rebuild u).respond .ok 0) := by
  obtain ⟨hout, hrest⟩ := (h.setBoundary u.phi (bits16 (msineFn u.params u.phi u.att))).lookahead_respond
  exact ⟨⟨by simp, by simp [directAt], hout⟩, hrest⟩

/-! ## The setters -/

theorem writesOnly_setFreq (v : Word) (s : State) : WritesOnly .freq s (s.setFreq v) where
  regs := by
    intro r hr
    cases r with
    | freq => simp at hr
    | _ => rfl
  outside := .refl s

theorem writesOnly_setPhi (v : Word) (s : State) : WritesOnly .phi s (s.setPhi v) where
  regs := by
    intro r hr
    cases r with
    | phi => simp at hr
    | _ => rfl
  outside := .refl s

theorem writesOnly_setAtt (v : Word) (s : State) : WritesOnly .att s (s.setAtt v) where
  regs := by
    intro r hr
    cases r with
    | att => simp at hr
    | _ => rfl
  outside := .refl s

/-- Settles O21: SETF in range is a rebuild after FREQ is written. -/
theorem setfWritesAndRebuilds : Obligations.SetfWritesAndRebuilds :=
  fun s imm h => ⟨_, exec_setf_in_range h s, by simp, (writesOnly_setFreq imm s).rebuild_respond⟩

/-- Settles O23: SETP is a rebuild after PHI is written. -/
theorem setpWritesAndRebuilds : Obligations.SetpWritesAndRebuilds :=
  fun s imm => ⟨_, rfl, by simp, (writesOnly_setPhi imm s).rebuild_respond⟩

/-- Settles O24: SETA is a rebuild after ATT is written. -/
theorem setaWritesAndRebuilds : Obligations.SetaWritesAndRebuilds :=
  fun s imm => ⟨_, rfl, by simp, (writesOnly_setAtt imm s).rebuild_respond⟩

/-! ## STEP -/

theorem exec_step_paused {s : State} (h : s.freq = 0) : exec .step s = .next (s.respond .ok 0) := if_pos h

theorem exec_step_moving {s : State} (h : s.freq ≠ 0) :
    exec .step s = .next ((afterAdvance (advance s)).respond .ok 0) := if_neg h

theorem writesOnly_advance (s : State) : WritesOnly .phi s (advance s) where
  regs := by
    intro r hr
    cases r with
    | phi | sidx => simp [smootherRegs] at hr
    | _ => rfl
  outside := .refl s

theorem afterAdvance_retires {s : State} (hpp : s.pp = true) (h : s.sidx = s.sampl) : afterAdvance s = retire s :=
  if_pos ⟨hpp, h⟩

theorem afterAdvance_rescans {s : State} (hpp : s.pp = false) (h : s.params.rescan = true) :
    afterAdvance s = rebuild s := by
  simp [afterAdvance, hpp, h]

/-- Settles O28: the retirement is a lookahead from the boundary PHI1, VAL1. -/
theorem stepRetiresTheWindow : Obligations.StepRetiresTheWindow := by
  intro s hf hpp hend
  have hexec := exec_step_moving hf
  rw [afterAdvance_retires (s := advance s) hpp hend] at hexec
  exact ⟨_, hexec, by simp, by simp, by simp,
    ((writesOnly_advance s).setBoundary s.phi1 s.val1).lookahead_respond⟩

/-- Settles O29: the rescan is a rebuild after the advance. -/
theorem stepRescansWhileInactive : Obligations.StepRescansWhileInactive := by
  intro s hf hpp hre
  have hexec := exec_step_moving hf
  rw [afterAdvance_rescans (s := advance s) hpp hre] at hexec
  exact ⟨_, hexec, by simp, (writesOnly_advance s).rebuild_respond⟩

/-! ## The phase period (R247) -/

/-- Whatever follows its advance, a STEP moves PHI by FREQ and keeps FREQ, at FREQ = 0 too (R244). -/
theorem exec_step_phi (s : State) : ∃ t, exec .step s = .next t ∧ t.phi = s.phi + s.freq ∧ t.freq = s.freq := by
  by_cases h : s.freq = 0
  · exact ⟨_, exec_step_paused h, by simp [h], rfl⟩
  · exact ⟨_, exec_step_moving h, by simp, by simp⟩

theorem execAll_cons_next {i : Instr} {is : List Instr} {s t : State} (h : exec i s = .next t) :
    execAll (i :: is) s = execAll is t := by
  rw [execAll, h]

/-- n STEPs move PHI by n times FREQ. -/
theorem execAll_steps_phi (n : Nat) :
    ∀ s : State, ∃ t, execAll (List.replicate n .step) s = some t ∧ t.phi = phaseAfter s.phi s.freq n := by
  induction n with
  | zero => exact fun s => ⟨s, rfl, (phaseAfter_zero _ _).symm⟩
  | succ n ih =>
    intro s
    obtain ⟨t, ht, hphi, hfreq⟩ := exec_step_phi s
    obtain ⟨u, hu, huphi⟩ := ih t
    refine ⟨u, (execAll_cons_next ht).trans hu, ?_⟩
    rw [huphi, hphi, hfreq, phaseAfter_succ]

/-- The phase n samples on is the same exactly at the multiples of the period (R247). -/
theorem phaseAfter_eq_self_iff (p freq : Word) (n : Nat) :
    phaseAfter p freq n = p ↔ 0x10000 / Nat.gcd 0x10000 freq.toNat ∣ n := by
  have hgcd : 0 < Nat.gcd 0x10000 freq.toNat := Nat.gcd_pos_of_pos_left _ (by decide)
  rw [Nat.div_dvd_iff_dvd_mul (Nat.gcd_dvd_left _ _) hgcd, Nat.dvd_gcd_mul_iff_dvd_mul, Nat.mul_comm,
    Nat.dvd_iff_mod_eq_zero]
  bv_omega

/-- Settles O31: n STEPs return PHI exactly when the period divides n. -/
theorem phasePeriod : Obligations.PhasePeriod := by
  intro s
  refine ⟨?_, fun n hpos hlt => ?_⟩
  · obtain ⟨t, ht, hphi⟩ := execAll_steps_phi (0x10000 / Nat.gcd 0x10000 s.freq.toNat) s
    exact ⟨t, ht, hphi.trans ((phaseAfter_eq_self_iff _ _ _).mpr dvd_rfl)⟩
  · obtain ⟨t, ht, hphi⟩ := execAll_steps_phi n s
    refine ⟨t, ht, fun heq => ?_⟩
    exact Nat.not_dvd_of_pos_of_lt hpos hlt ((phaseAfter_eq_self_iff _ _ _).mp (hphi.symm.trans heq))

/-! ## The pause (R248) -/

/-- No schedule is active while FREQ = 0 (R53). -/
theorem State.Inv.inactive_of_paused {s : State} (h : s.Inv) (hf : s.freq = 0) : s.pp = false := by
  cases hpp : s.pp with
  | false => rfl
  | true =>
    have hmoving := (h.scheduled hpp).moving
    simp [hf] at hmoving

/-- STATUS.PP is bit 0 of a register (R35). -/
theorem SameRegs.pp {s t : State} (h : SameRegs s t) : t.pp = s.pp := by
  have hbit : (statusWord t).getLsbD 0 = (statusWord s).getLsbD 0 := congrArg (fun w => w.getLsbD 0) (h .status)
  rw [getLsbD_statusWord, getLsbD_statusWord] at hbit
  exact hbit

/-- STEPs of a paused oscillator only answer. -/
theorem execAll_steps_paused (n : Nat) :
    ∀ s : State, s.freq = 0 →
      ∃ t, execAll (List.replicate n .step) s = some t ∧ SameRegs s t ∧ t.params = s.params := by
  induction n with
  | zero => exact fun s _ => ⟨s, rfl, fun _ => rfl, rfl⟩
  | succ n ih =>
    intro s hf
    obtain ⟨t, ht, hregs, hparams⟩ := ih (s.respond .ok 0) hf
    exact ⟨t, (execAll_cons_next (exec_step_paused hf)).trans ht,
      fun r => (hregs r).trans (readReg_respond _ _ _ r), hparams⟩

/-- Settles O26: a paused STEP is its response. -/
theorem pausedStepChangesNothing : Obligations.PausedStepChangesNothing :=
  fun s hf => ⟨_, exec_step_paused hf, readOnly_respond 0 s⟩

/-- Settles O32: the registers OUT reads are those before the STEPs, with no schedule active. -/
theorem pausedOutputIsConstant : Obligations.PausedOutputIsConstant := by
  intro s hi hf
  have hpp := hi.inactive_of_paused hf
  refine ⟨hpp, fun n => ?_⟩
  obtain ⟨t, ht, hregs, hparams⟩ := execAll_steps_paused n s hf
  have hphi : t.phi = s.phi := hregs .phi
  have hatt : t.att = s.att := hregs .att
  have hsample : outputSample t = directAt s s.phi := by
    simp [outputSample, hregs.pp, hpp, directAt, hphi, hatt, hparams]
  exact ⟨t, _, ht, hregs, rfl, hsample ▸ answered_respond _ _ t⟩

/-! ## INIT, and SETF out of range -/

/-- Settles O20: INIT writes every register but the two it keeps. -/
theorem initZeroesAllButFault : Obligations.InitZeroesAllButFault := by
  intro s
  refine ⟨_, rfl, fun r hstatus hcfg => ?_, rfl, rfl, ⟨rfl, rfl, rfl⟩, rfl, rfl, rfl⟩
  cases r with
  | status => exact absurd rfl hstatus
  | cfg => exact absurd rfl hcfg
  | _ => rfl

/-- Settles O22: the range check raises EINVAL before any write. -/
theorem setfAboveTheLimitFails : Obligations.SetfAboveTheLimitFails :=
  fun s _ h => ⟨_, exec_setf_above_limit h s, failed_raise .einval s⟩

end Sys2Proof.Machine

/-!
PROOFS, the family of 43_smoother.md: the scan finds the first change (R282, R283), the layout and the ends of the
tiling (R295 to R297), and the soundness of the smoothed output (R298, R303).
-/
namespace Sys2Proof.Machine

/-! ## The scan -/

/-- Settles O49: what a scan finds is a transition, and a transition would be found. -/
theorem scanFindsTheFirstChange : Obligations.ScanFindsTheFirstChange := by
  intro s p v
  refine ⟨fun h hs => ?_, fun hs n ht => ?_⟩
  · obtain ⟨ht, hphase, hval⟩ := scan_some_transition hs
    exact ⟨ht, hphase, by rw [hval, hphase]⟩
  · rw [scan_of_transition ht] at hs
    cases hs

/-! ## The tiling -/

/-- Slot j of main group k is VAL1 in the last k slots of the group (R296). -/
theorem tileDefault_main_group {k j sampl steps msize asize : Nat} (hk : k + 1 < steps) (hj : j < msize) :
    tileDefault ⟨k * msize + j, sampl, steps, msize, asize⟩ = decide (msize ≤ j + k) := by
  have hmain : k * msize + j < (steps - 1) * msize := calc
    k * msize + j < (k + 1) * msize := by rw [Nat.succ_mul]; omega
    _ ≤ (steps - 1) * msize := Nat.mul_le_mul_right msize (by omega)
  have hgroup : (k * msize + j) / msize = k := by
    rw [Nat.mul_comm, Nat.mul_add_div (by omega), Nat.div_eq_of_lt hj, Nat.add_zero]
  have hslot : (k * msize + j) % msize = j := by rw [Nat.mul_comm, Nat.mul_add_mod, Nat.mod_eq_of_lt hj]
  simp only [tileDefault, if_pos hmain, hgroup, hslot, Nat.sub_le_iff_le_add]

/-- The additional step alternates, beginning with VAL0 (R296). -/
theorem tileDefault_additional_step {j sampl steps msize asize : Nat} (hj : j < asize) :
    tileDefault ⟨(steps - 1) * msize + j, sampl, steps, msize, asize⟩ = decide (j % 2 = 1) := by
  simp [tileDefault, hj]

/-- The right-hand block, from RIDX on, is VAL1 (R295, R296). -/
theorem tileDefault_right_block (j sampl steps msize asize : Nat) :
    tileDefault ⟨(steps - 1) * msize + asize + j, sampl, steps, msize, asize⟩ = true := by
  simp [tileDefault, Nat.add_assoc]

/-- The main groups, the additional step and the right-hand block make up the window (R294, R295). -/
theorem sampl_eq_parts {sampl steps : Nat} (h : 1 ≤ steps) :
    (steps - 1) * (sampl / steps) + sampl % steps + sampl / steps = sampl := by
  rw [Nat.add_right_comm, ← Nat.succ_mul, Nat.succ_eq_add_one, Nat.sub_add_cancel h]
  exact Nat.div_add_mod sampl steps

/-- Settles O51: the three ranges of the window, one by one. -/
theorem tileDefaultLayout : Obligations.TileDefaultLayout :=
  fun _ _ _ _ _ _ _ _ =>
    ⟨fun _ _ => tileDefault_main_group, fun _ => tileDefault_additional_step,
      fun j _ => tileDefault_right_block j _ _ _ _⟩

/-- Settles O50: under the default, the first sample is slot 0 of group 0 and the last one ends the right-hand block;
a listed pattern is not consulted at either. -/
theorem tileEndsAreFixed : Obligations.TileEndsAreFixed := by
  intro p sampl steps msize asize hsteps hle hmsize hasize
  have hparts : (steps - 1) * msize + asize + msize = sampl := by
    rw [hmsize, hasize]
    exact sampl_eq_parts (by omega)
  cases p with
  | default =>
    constructor
    · have hfirst := tileDefault_main_group (k := 0) (j := 0) (sampl := sampl) (asize := asize) (msize := msize)
        (by omega : 0 + 1 < steps) (by omega)
      have hpos : msize ≠ 0 := by omega
      simpa [tile, hpos] using hfirst
    · have hlast : sampl - 1 = (steps - 1) * msize + asize + (msize - 1) := by omega
      rw [tile, hlast]
      exact tileDefault_right_block _ _ _ _ _
  | table ones =>
    have hpos : sampl - 1 ≠ 0 := by omega
    have hend : sampl - 1 + 1 = sampl := by omega
    exact ⟨by simp [tile], by simp [tile, hpos, hend]⟩

/-! ## The smoothed output -/

theorem tiledSample_eq_val0_or_val1 (s : State) :
    tiledSample s = s.val0.toInt ∨ tiledSample s = s.val1.toInt := by
  unfold tiledSample
  split
  · exact .inr rfl
  · exact .inl rfl

/-- The direct sample inside a window lies on one of its two plateaus. -/
theorem State.Scheduled.directAt_phi {s : State} (h : s.Scheduled) :
    directAt s s.phi = s.val0.toInt ∨ directAt s s.phi = s.val1.toInt := by
  obtain ⟨c, -, -, hplateaus⟩ := h.plateaus
  rw [h.phi_eq, hplateaus _ h.sidx_lt]
  split
  · exact .inl rfl
  · exact .inr rfl

/-- A window's first sample is VAL0 under every P_TILE (R296, R303). -/
theorem State.Scheduled.tiledSample_first {s : State} (h : s.Scheduled) (hs : s.sidx = 0) :
    tiledSample s = s.val0.toInt := by
  obtain ⟨hfirst, -⟩ := tileEndsAreFixed s.params.tile _ _ _ _ h.steps_min h.steps_le_msize h.msize_eq h.asize_eq
  have hargs : tileArgs s = ⟨0, s.sampl.toNat, s.steps.toNat, s.msize.toNat, s.asize.toNat⟩ := by
    simp [tileArgs, hs]
  simp [tiledSample, hargs, hfirst]

/-- A window's last sample is VAL1 under every P_TILE (R296, R303). -/
theorem State.Scheduled.tiledSample_last {s : State} (h : s.Scheduled) (hs : s.sidx + 1 = s.sampl) :
    tiledSample s = s.val1.toInt := by
  obtain ⟨-, hlast⟩ := tileEndsAreFixed s.params.tile _ _ _ _ h.steps_min h.steps_le_msize h.msize_eq h.asize_eq
  have hsidx : s.sidx.toNat = s.sampl.toNat - 1 := by
    rw [← hs, h.toNat_sidx_succ, Nat.add_sub_cancel]
  simp [tiledSample, tileArgs, hsidx, hlast]

/-- Settles O55: the tiled sample and the direct sample are each one of two values one quantum apart. -/
theorem smootherIsSound : Obligations.SmootherIsSound := by
  intro s hi
  refine ⟨_, outputSample s, rfl, readOnly_respond _ s, fun hpp => ?_, fun hpp => ?_⟩
  · simp [outputSample, hpp, directAt]
  · have h := hi.scheduled hpp
    have htiled : outputSample s = tiledSample s := if_pos hpp
    have hvalue := tiledSample_eq_val0_or_val1 s
    have hclose : (tiledSample s - directAt s s.phi).natAbs ≤ 1 := by
      have hdirect := h.directAt_phi
      have hquantum := h.one_quantum
      omega
    rw [htiled]
    exact ⟨hvalue, hclose, h.tiledSample_first, h.tiledSample_last, h.settled⟩

end Sys2Proof.Machine

/-!
PROOFS, the family of 60_exceptions.md: FAULT is sticky (R335), and the block at its ports (R336, R381 to R383): what it
answers in each phase, and a command over its cycles.
-/
namespace Sys2Proof.Machine

/-! ## The sticky FAULT (R335) -/

theorem Err.status_ne_ok (e : Err) : e.status ≠ .ok := by cases e <;> decide

/-- A command failed as its end shows it: an answer that is not OK, or HALTED becoming 1. -/
def EndsInFailure (s t : State) : Prop :=
  (∃ r, t.responses = s.responses ++ [r] ∧ r.status ≠ .ok) ∨ (s.halted = false ∧ t.halted = true)

theorem Failed.endsInFailure {e : Err} {s t : State} (h : Failed e.status s t) (hs : s.halted = false) :
    EndsInFailure s t := by
  obtain ⟨-, -, -, -, ⟨-, hresp, -⟩ | ⟨-, hhalt, -⟩⟩ := h
  · exact .inl ⟨_, hresp, e.status_ne_ok⟩
  · exact .inr ⟨hs, hhalt⟩

theorem Answered.not_endsInFailure {d : RspData} {s t : State} (h : Answered .ok d s t) : ¬ EndsInFailure s t := by
  obtain ⟨hresp, -, hhalt⟩ := h
  rintro (⟨r, hr, hne⟩ | ⟨hs, ht⟩)
  · rw [hresp, List.append_cancel_left_eq, List.singleton_inj] at hr
    subst hr
    exact hne rfl
  · rw [hhalt, hs] at ht
    cases ht

/-- Settles O13: a command answered OK keeps FAULT and does not end in failure; a failed one sets FAULT and does. -/
theorem faultIsSticky : Obligations.FaultIsSticky := by
  refine ⟨fun w s t h => ?_, fun _ => rfl⟩
  change t.fault = true ↔ s.fault = true ∨ EndsInFailure s t
  obtain ⟨hs, -⟩ := runCommand_cases h
  have hends := runCommand_ends w hs
  rw [h] at hends
  rcases hends.next_cases with ⟨hfault, -, d, ha⟩ | ⟨e, hf⟩
  · rw [hfault, or_iff_left ha.not_endsInFailure]
  · have hend := hf.endsInFailure hs
    obtain ⟨-, -, hfault, -⟩ := hf
    exact iff_of_true hfault (.inr hend)

/-! ## The outputs of a cycle (R370, R381) -/

theorem outputs_cmdReady_iff (c : Clocked) (i : PortIn) :
    (c.outputs i).cmdReady = true ↔ i.rstN = true ∧ c.st.halted = false ∧ c.phase = .idle := by
  simp [Clocked.outputs, and_assoc]

theorem outputs_rsp_eq_some_iff (c : Clocked) (i : PortIn) (r : Response) :
    (c.outputs i).rsp = some r ↔ i.rstN = true ∧ c.phase = .responding r := by
  cases hp : c.phase <;> simp [Clocked.outputs, hp]

theorem outputs_rspValid_iff (c : Clocked) (i : PortIn) :
    (c.outputs i).rspValid = true ↔ i.rstN = true ∧ ∃ r, c.phase = .responding r := by
  simp only [PortOut.rspValid, Option.isSome_iff_exists, outputs_rsp_eq_some_iff, exists_and_left]

theorem outputs_rsp_idle (st : State) (i : PortIn) : (Clocked.outputs ⟨st, .idle⟩ i).rsp = none := rfl

/-! ## A block that takes no command (R336, R381) -/

theorem tick_idle_halted {lat : Latency} {st : State} {i : PortIn} (h : i.rstN = true) (hs : st.halted = true) :
    Clocked.tick lat ⟨st, .idle⟩ i = ⟨st, .idle⟩ := by
  simp [Clocked.tick, h, hs]

/-- A block that is not ready does not look at the command offered. -/
theorem tick_ignores_offer {lat : Latency} {c : Clocked} {i : PortIn} (h : (c.outputs i).cmdReady = false) (v : Bool)
    (w : CmdWord) : c.tick lat { i with cmdValid := v, cmdWord := w } = c.tick lat i := by
  rcases i.rstN.eq_false_or_eq_true with hr | hr
  · obtain ⟨st, phase⟩ := c
    cases phase with
    | idle =>
      have hs : st.halted = true := by simpa [Clocked.outputs, hr] using h
      rw [tick_idle_halted hr hs]
      exact tick_idle_halted hr hs
    | executing w' left => rw [tick_executing w' left hr]; exact tick_executing w' left hr
    | responding r => rfl
  · rw [tick_reset c hr]
    exact tick_reset c hr

/-- Settles O10: the step, the command function and the ports of a halted block each answer by their first check. -/
theorem haltedBlockAcceptsNothing : Obligations.HaltedBlockAcceptsNothing := by
  refine fun s hs => ⟨step_of_halted hs, fun w => runCommand_of_halted w hs, fun lat i hr => ⟨?_, ?_, ?_⟩⟩
  · rw [Bool.eq_false_iff, ne_eq, outputs_cmdReady_iff, hs]
    rintro ⟨-, hne, -⟩
    cases hne
  · exact outputs_rsp_idle s i
  · exact tick_idle_halted hr hs

/-- Settles O60: the outputs by phase, and the edge of each phase. -/
theorem oneCommandAtATime : Obligations.OneCommandAtATime := by
  intro lat c i
  have hoffered : ∀ {r}, c.phase = .responding r → i.rstN = true → (c.outputs i).rsp = some r :=
    fun hp hr => (outputs_rsp_eq_some_iff c i _).mpr ⟨hr, hp⟩
  refine ⟨outputs_rspValid_iff c i, fun r hp hr => ?_, outputs_cmdReady_iff c i, tick_ignores_offer,
    fun r hp hr hready => ⟨?_, hoffered hp hr⟩, fun r hp hr hready => ⟨hoffered hp hr, ?_⟩,
    fun hp hr hv => ?_⟩
  · simp [PortOut.rspStatus, PortOut.rspData, hoffered hp hr]
  · obtain ⟨st, _⟩ := c
    cases hp
    exact tick_response_held r hr hready
  · have htick : c.tick lat i = ⟨c.st, .idle⟩ := by
      obtain ⟨st, _⟩ := c
      cases hp
      exact tick_response_taken r hr hready
    rw [htick]
    exact ⟨rfl, rfl, fun j hj => ⟨rfl, by simp [outputs_cmdReady_iff, hj]⟩⟩
  · obtain ⟨st, _⟩ := c
    cases hp
    exact tick_idle_not_offered hr hv

/-! ## A command over its cycles (R382, R383) -/

theorem completeCommand_halts {w : CmdWord} {s t : State} (h : runCommand w s = .next t) (ht : t.halted = true) :
    completeCommand w s = ⟨t, .idle⟩ := by
  simp [completeCommand, h, ht]

theorem completeCommand_responds {w : CmdWord} {s t : State} {rs : List Response} {r : Response}
    (h : runCommand w s = .next t) (ht : t.halted = false) (hr : t.responses = rs ++ [r]) :
    completeCommand w s = ⟨t, .responding r⟩ := by
  simp [completeCommand, h, ht, hr]

/-- A completed command leaves the command function's state, and offers the response it added or halts. -/
theorem completeCommand_of_endsOnce {w : CmdWord} {s t : State} (hs : s.halted = false)
    (h : runCommand w s = .next t) (hend : EndsOnce s t) :
    (completeCommand w s).st = t ∧
      (t.halted = false → ∃ r, t.responses = s.responses ++ [r] ∧ (completeCommand w s).phase = .responding r) ∧
      (t.halted = true → (completeCommand w s).phase = .idle) := by
  rcases hend with ⟨status, data, ⟨hresp, -, hkept⟩, -⟩ | ⟨-, hhalt, -⟩
  · have hrun : t.halted = false := hkept.trans hs
    rw [completeCommand_responds h hrun hresp]
    exact ⟨rfl, fun _ => ⟨_, hresp, rfl⟩, fun hhalt => absurd (hrun.symm.trans hhalt) Bool.false_ne_true⟩
  · rw [completeCommand_halts h hhalt]
    exact ⟨rfl, fun hrun => absurd (hrun.symm.trans hhalt) Bool.false_ne_true, fun _ => rfl⟩

theorem continueCommand_last {left : Nat} (h : left ≤ 1) (w : CmdWord) (s : State) :
    continueCommand w s left = completeCommand w s := if_pos h

theorem continueCommand_more {left : Nat} (h : 1 < left) (w : CmdWord) (s : State) :
    continueCommand w s left = ⟨s, .executing w (left - 1)⟩ := if_neg (Nat.not_le.mpr h)

/-- One more cycle of a command that has more than one edge left uses one of them up. -/
theorem ticks_continueCommand_cons {lat : Latency} {j : PortIn} {left : Nat} (h : 1 < left) (hr : j.rstN = true)
    (w : CmdWord) (s : State) (js : List PortIn) :
    (continueCommand w s left).ticks lat (j :: js) = (continueCommand w s (left - 1)).ticks lat js := by
  rw [continueCommand_more h, Clocked.ticks, tick_executing w _ hr]

/-- The command completes at its last edge. -/
theorem ticks_continueCommand_completes {lat : Latency} {w : CmdWord} {s : State} :
    ∀ {js : List PortIn} {left : Nat}, (∀ j ∈ js, j.rstN = true) → js.length + 1 = max 1 left →
      (continueCommand w s left).ticks lat js = completeCommand w s
  | [], left, _, hlen => continueCommand_last (by rw [List.length_nil] at hlen; omega) w s
  | j :: js, left, hrst, hlen => by
    obtain ⟨hj, hjs⟩ := List.forall_mem_cons.mp hrst
    rw [List.length_cons] at hlen
    rw [ticks_continueCommand_cons (by omega) hj]
    exact ticks_continueCommand_completes hjs (by omega)

/-- Before its last edge the command is executing, on the state it found. -/
theorem ticks_continueCommand_executing {lat : Latency} {w : CmdWord} {s : State} :
    ∀ {js : List PortIn} {left : Nat}, (∀ j ∈ js, j.rstN = true) → js.length + 1 < left →
      ∃ k, (continueCommand w s left).ticks lat js = ⟨s, .executing w k⟩
  | [], left, _, hlen => ⟨left - 1, continueCommand_more hlen w s⟩
  | j :: js, left, hrst, hlen => by
    obtain ⟨hj, hjs⟩ := List.forall_mem_cons.mp hrst
    rw [List.length_cons] at hlen
    rw [ticks_continueCommand_cons (by omega) hj]
    exact ticks_continueCommand_executing hjs (by omega)

/-- Settles O58: the accepted command executes edge after edge and completes as the command function does. -/
theorem clockedBlockAgreesWithTheCommand : Obligations.ClockedBlockAgreesWithTheCommand := by
  rintro lat ⟨st, _⟩ i is rfl hs hr hv hrst hlen
  change is.length + 1 = max 1 (lat i.cmdWord st) at hlen
  have haccept : ∀ js, Clocked.ticks lat ⟨st, .idle⟩ (i :: js) =
      (continueCommand i.cmdWord st (lat i.cmdWord st)).ticks lat js := fun js => by
    rw [Clocked.ticks, tick_idle_accepts hr hv hs]
  have hdone := (haccept is).trans (ticks_continueCommand_completes hrst hlen)
  obtain ⟨t, ht, hend⟩ := (runCommand_ends i.cmdWord hs).exists_endsOnce
  obtain ⟨hst, hresponds, hhalts⟩ := completeCommand_of_endsOnce hs ht hend
  rw [hdone]
  refine ⟨t, ht, hst, hresponds, hhalts, fun k hk => ?_⟩
  have hrest : ∀ j ∈ is.take k, j.rstN = true := fun j hj => hrst j (List.mem_of_mem_take hj)
  rw [haccept]
  exact ticks_continueCommand_executing hrest (by rw [List.length_take_of_le hk.le]; omega)

end Sys2Proof.Machine

/-!
PROOFS, the family of 70_reset_and_hazards.md: what reset leaves, in the state and at the ports (R370 to R373), and the
host's sampling pattern (R386).
-/
namespace Sys2Proof.Machine

/-! ## The reset event (R371) -/

/-- Reset zeroes every register that is not read from the parameters. -/
theorem readReg_assertReset (s : State) {r : Reg} (h : r ≠ .cfg) : readReg s.assertReset r = 0 := by
  cases r with
  | cfg => exact absurd rfl h
  | _ => rfl

theorem assertReset_inactive (s : State) : s.assertReset.Inactive := ⟨rfl, rfl, rfl, rfl, rfl, rfl, rfl, rfl⟩

/-- After reset VAL0 is the sample at PHI0, as the sine is 0 at phase 0 (R55). -/
theorem assertReset_val0 {s : State} (h : ParamsLegal s.params) :
    s.assertReset.val0.toInt = directAt s.assertReset s.assertReset.phi0 :=
  (msineFn_zero h 0).symm

/-- INIT leaves the registers of reset, once FAULT, which it keeps, is 0 (R240, R374). -/
theorem exec_init_sameRegs_assertReset {s : State} (h : s.fault = false) :
    ∃ t, exec .init s = .next t ∧ SameRegs t s.assertReset := by
  obtain ⟨t, ht, hzero, hpp, hfault, ⟨hparams, -⟩, -⟩ := initZeroesAllButFault s
  refine ⟨t, ht, fun r => ?_⟩
  cases r with
  | status => simp [readReg, statusWord, hpp, hfault, h]
  | cfg => simp [readReg, hparams]
  | _ => exact (hzero _ (by decide) (by decide)).symm

/-- Settles O15: reset is the power-on state with the parameters and tables kept. -/
theorem resetZeroesEveryRegister : Obligations.ResetZeroesEveryRegister :=
  ⟨fun s => ⟨fun _ => readReg_assertReset s, rfl, rfl, rfl, rfl, assertReset_inactive s, assertReset_val0,
    exec_init_sameRegs_assertReset⟩, fun _ => rfl⟩

/-! ## Reset at the ports (R370, R372) -/

/-- While reset is asserted the block takes no command and offers no response, in every phase. -/
theorem outputs_in_reset (c : Clocked) {i : PortIn} (h : i.rstN = false) : c.outputs i = ⟨false, none⟩ := by
  cases hp : c.phase <;> simp [Clocked.outputs, h, hp]

/-- An idle block that is not halted is ready and offers nothing. -/
theorem outputs_ready {st : State} {i : PortIn} (h : i.rstN = true) (hs : st.halted = false) :
    Clocked.outputs ⟨st, .idle⟩ i = ⟨true, none⟩ := by
  simp [Clocked.outputs, h, hs]

/-- Settles O59: the edge in reset leaves an idle block on the reset state, whatever the phase was. -/
theorem resetAbandonsTheCommand : Obligations.ResetAbandonsTheCommand := by
  intro lat c i j hi hj
  rw [outputs_in_reset c hi, tick_reset c hi, outputs_ready hj c.st.assertReset_halted]
  exact ⟨rfl, rfl, rfl, fun _ => readReg_assertReset c.st, rfl, rfl, rfl, rfl⟩

/-! ## The host pattern (R386) -/

/-- A STEP, paused or moving, is answered OK with data 0 (R244). -/
theorem exec_step_answered {s t : State} (h : exec .step s = .next t) : Answered .ok 0 s t := by
  by_cases hf : s.freq = 0
  · rw [exec_step_paused hf] at h
    cases h
    exact answered_respond _ _ s
  · rw [exec_step_moving hf] at h
    cases h
    simp [Answered]

/-- Settles O56: RDREG and OUT only answer, so the STEP after them advances the phase they were given at. -/
theorem hostPatternReadsPhaseAndSample : Obligations.HostPatternReadsPhaseAndSample := by
  intro s
  obtain ⟨-, hsample⟩ := sampleData_holds (outputSample_range s)
  obtain ⟨t, ht, hphi, -⟩ :=
    exec_step_phi ((s.respond .ok (s.phi.setWidth 32)).respond .ok (sampleData (outputSample s)))
  obtain ⟨hresp, -⟩ := exec_step_answered ht
  have hrun : execAll [.rdreg .phi, .out, .step] s = some t := calc
    execAll [.rdreg .phi, .out, .step] s = execAll [.out, .step] (s.respond .ok (s.phi.setWidth 32)) :=
      execAll_cons_next rfl
    _ = execAll [.step] ((s.respond .ok (s.phi.setWidth 32)).respond .ok (sampleData (outputSample s))) :=
      execAll_cons_next rfl
    _ = some t := execAll_cons_next ht
  exact ⟨t, hrun, by simp [hresp], hphi, hsample⟩

end Sys2Proof.Machine
